-- ==== Sys2Proof/Word.lean ====
section
/-! DEFINITION. Bytes, 32-bit values and Words, the spec's three kinds of datum (00_scope R9). -/

namespace Sys2Proof

/-- A Byte, an unsigned 8-bit value, bits numbered 7 down to 0 (00_scope R9). -/
abbrev Byte := BitVec 8

/-- A 32-bit value, what a register holds and the port carries (00_scope R9). -/
abbrev Value32 := BitVec 32

/-- A Word, an ordered sequence of exactly four Bytes, `W[0]` first. It has no integer value of its
own (00_scope R9); the port's image of it is `Machine.lane32`. -/
structure Word where
  b0 : Byte
  b1 : Byte
  b2 : Byte
  b3 : Byte
deriving DecidableEq, Repr

/-- The Word of four zero Bytes. -/
def Word.zero : Word := ⟨0, 0, 0, 0⟩

/-- The four Bytes of a Word in order. -/
def Word.bytes (w : Word) : List Byte := [w.b0, w.b1, w.b2, w.b3]

end Sys2Proof
end

