-- ==== Sys2Proof/Syntax.lean ====
section
/-! DEFINITION. The five commands (30_encoding R75), one constructor for each row of
spec/opcode_table.json. -/

namespace Sys2Proof

/-- A command with its operands. The operands in a command word are Bytes (30_encoding R72); all
other operands of a command are registers and buffers. -/
inductive Instr where
  /-- `GFMUL a, b`: multiply Byte `a` by the coefficient `b` in GF(2^8) (40_galois_field R104). -/
  | gfmul (a b : Byte)
  /-- `SUBB a`: look Byte `a` up in the S-box (41_substitution_box R114). -/
  | subb (a : Byte)
  /-- `KEXP`: expand the key in `KEY` into the schedule `RKS` (42_key_schedule R130). -/
  | kexp
  /-- `MIXC`: apply MixColumns to `SIN`, result in `SOUT` (43_mix_columns R144). -/
  | mixc
  /-- `DERIVE`: derive a key from `PW` and `SALT` into `DK` (44_key_derivation R157). -/
  | derive
deriving DecidableEq, Repr

end Sys2Proof
end

