-- ==== Sys2Proof/Decode.lean ====
section
/-! DEFINITION. The decoder and the encoder of command words (30_encoding R70 to R79). -/

namespace Sys2Proof

/-- Why a word is no command (30_encoding R76). -/
inductive DecodeError where
  /-- `opc` is `0x00` or in `0x06..0xFF`. -/
  | unassignedOpcode
  /-- The field `z` of one of the five opcodes is not zero. -/
  | zNotZero
  /-- The field `b` of `SUBB`, `KEXP`, `MIXC` or `DERIVE` is not zero. -/
  | bNotZero
  /-- The field `a` of `KEXP`, `MIXC` or `DERIVE` is not zero. -/
  | aNotZero
deriving DecidableEq, Repr

/-- `opc`, bits 31:24 (30_encoding R70). -/
def fieldOpc (v : Value32) : Byte := v.extractLsb' 24 8
/-- `z`, bits 23:16 (30_encoding R70). -/
def fieldZ (v : Value32) : Byte := v.extractLsb' 16 8
/-- `b`, bits 15:8 (30_encoding R70, R72). -/
def fieldB (v : Value32) : Byte := v.extractLsb' 8 8
/-- `a`, bits 7:0 (30_encoding R70, R72). -/
def fieldA (v : Value32) : Byte := v.extractLsb' 0 8

def opcGfmul : Byte := 0x01
def opcSubb : Byte := 0x02
def opcKexp : Byte := 0x03
def opcMixc : Byte := 0x04
def opcDerive : Byte := 0x05

/-- Format `AB`: two Byte operands, `z` zero (30_encoding R71). -/
def decodeAB (mk : Byte → Byte → Instr) (v : Value32) : Except DecodeError Instr :=
  if fieldZ v ≠ 0 then .error .zNotZero
  else .ok (mk (fieldA v) (fieldB v))

/-- Format `A`: one Byte operand, `z` and `b` zero (30_encoding R71). -/
def decodeA (mk : Byte → Instr) (v : Value32) : Except DecodeError Instr :=
  if fieldZ v ≠ 0 then .error .zNotZero
  else if fieldB v ≠ 0 then .error .bNotZero
  else .ok (mk (fieldA v))

/-- Format `N`: no operand, `z`, `b` and `a` zero (30_encoding R71). -/
def decodeN (i : Instr) (v : Value32) : Except DecodeError Instr :=
  if fieldZ v ≠ 0 then .error .zNotZero
  else if fieldB v ≠ 0 then .error .bNotZero
  else if fieldA v ≠ 0 then .error .aNotZero
  else .ok i

/-- The decoder: exactly one 32-bit word, no mode and no prefix (30_encoding R75 to R77). -/
def decodeWord (v : Value32) : Except DecodeError Instr :=
  if fieldOpc v = opcGfmul then decodeAB .gfmul v
  else if fieldOpc v = opcSubb then decodeA .subb v
  else if fieldOpc v = opcKexp then decodeN .kexp v
  else if fieldOpc v = opcMixc then decodeN .mixc v
  else if fieldOpc v = opcDerive then decodeN .derive v
  else .error .unassignedOpcode

/-- A command word from its fields: `opc << 24 | b << 8 | a`, with `z` zero (30_encoding R79). -/
def assemble (opc b a : Byte) : Value32 := opc ++ 0#8 ++ b ++ a

/-- The encoder: the one word of a command (30_encoding R71, R79). -/
def encode : Instr → Value32
  | .gfmul a b => assemble opcGfmul b a
  | .subb a => assemble opcSubb 0 a
  | .kexp => assemble opcKexp 0 0
  | .mixc => assemble opcMixc 0 0
  | .derive => assemble opcDerive 0 0

/-- What the decoder reads from an instruction of `nbits` bits whose value is `w`. A command is one
32-bit word (30_encoding R70); a value that does not fit one is none. -/
def decodeTableWord (nbits w : Nat) : Option Instr :=
  let w := w % 2 ^ nbits
  if w < 2 ^ 32 then (decodeWord (BitVec.ofNat 32 w)).toOption else none

end Sys2Proof
end

