-- ==== Sys2Proof/Config.lean ====
section
/-! DEFINITION. The parameters of the hardware (00_scope R7, R8) and the free values: what the spec
leaves to configuration or leaves unspecified. -/

namespace Sys2Proof

/-- The PRF configuration record (44_key_derivation R150) over a type `Ctx` of contexts. A digest is
given byte by byte, so that it has exactly `hLen div 8` bytes by construction; `hLen` is given as
its number of bytes less one, so that it is a positive multiple of 8 by construction (00_scope R7). -/
structure Prf (Ctx : Type) where
  hBPred : Nat
  init : List Byte → Ctx
  update : Ctx → List Byte → Ctx
  digestByte : Ctx → Nat → Byte
deriving Inhabited

/-- `hB`, the size of a digest in bytes (44_key_derivation R150). -/
def Prf.hB {Ctx : Type} (p : Prf Ctx) : Nat := p.hBPred + 1

/-- `hLen`, the size of a digest in bits (44_key_derivation R150). -/
def Prf.hLen {Ctx : Type} (p : Prf Ctx) : Nat := 8 * p.hB

/-- Which PRF record the hardware is configured with: the site's own, of which nothing is known, or
the spec's test instance `TOY16` (95_test_vectors 2.5). DESIGN CHOICE, log 3. -/
inductive PrfChoice where
  | site
  | toy16
deriving DecidableEq, Repr

/-- The configuration of one piece of hardware, fixed for its lifetime (00_scope R7, R8; 10_state
R20). Capacities are in bytes; `Params.wellFormed` is the spec's constraint on them. -/
structure Params where
  prf : PrfChoice
  pwMax : Nat
  saltMax : Nat
  dkMax : Nat
deriving DecidableEq, Repr

/-- The default capacities of 00_scope R8, with the site's PRF. Log 2, 3. -/
def Params.default : Params := { prf := .site, pwMax := 256, saltMax := 256, dkMax := 256 }

/-- FREE VALUE: the site's PRF record (44_key_derivation R150: "The model assumes nothing else of
them"). A context is represented as a byte sequence, log 4. -/
opaque Config.prf : Prf (List Byte)

/-- FREE VALUE: what the buffer byte at a window offset holds after a reset and before it is written
(10_state R41: "a free initial value, chosen once at reset, stable until written"). The first
argument counts the resets, since two resets need not leave the same value (93 U1). Log 5.
DESIGN CHOICE, unsafe for a claim that compares two runs across a reset: whether the contents after a
reset depend on those before it is open (10_state R41: "they may still hold earlier key material";
70_reset_and_hazards R191: "they may hold their old contents"), and here they do not, so two runs with
equal reset counts agree on every unwritten byte. -/
opaque Config.bufferByte : Nat → Nat → Byte

end Sys2Proof
end

