-- ==== Sys2Proof/Machine/State.lean ====
section
/-! DEFINITION. The state of the hardware (10_state), the outside world's inputs and the reasons a
step can stop. -/

namespace Sys2Proof.Machine

/-- The error codes (60_exceptions R170). `invalidStateShape` is allocated and never raised
(43_mix_columns R143). -/
inductive ErrorCode where
  | invalidKeySize
  | invalidMultiplier
  | invalidStateShape
  | invalidIterationCount
  | invalidOutputLength
  | capacityExceeded
  | illegalCommand
deriving DecidableEq, Repr

/-- The port's response to a transaction (20_memory R53). -/
inductive PortResponse where
  | okay
  | error
deriving DecidableEq, Repr

/-- The port's whole answer to a transaction (20_memory R50). -/
inductive Reply where
  | read (resp : PortResponse) (data : Value32)
  | write (resp : PortResponse)
deriving DecidableEq, Repr

/-- An offset in the host window as the port has it: bits [11:2] only, since "the port has no offset
bits [1:0]" (20_memory R57). An offset that is not a multiple of 4, or beyond `0xFFC`, cannot be
expressed. Log 10. -/
abbrev PortAddr := BitVec 10

/-- The four kinds of step (00_scope R13). -/
inductive Event where
  /-- `HostRead(off)` (20_memory R51). -/
  | hostRead (a : PortAddr)
  /-- `HostWrite(off, v)` (20_memory R52). -/
  | hostWrite (a : PortAddr) (v : Value32)
  /-- `EngineComplete` (10_state R45). -/
  | engine
  /-- `Reset` (70_reset_and_hazards R190). -/
  | reset
deriving DecidableEq, Repr

/-- The registers of the address map (20_memory R54). `CTRL` has no storage and `HLEN` is a
constant (10_state R29, R31). -/
inductive Reg where
  | cmd | status | err | ctrl | res | ksinfo | hlen | dklen
  | keybits | pwlen | saltlen | iter | outbits
deriving DecidableEq, Repr

/-- The buffers of the address map (20_memory R54). -/
inductive Buffer where
  | key | sin | sout | rks | pw | salt | dk
deriving DecidableEq, Repr

/-- What a mapped offset names (20_memory R54). -/
inductive Place where
  | reg (r : Reg)
  | buf (b : Buffer)
deriving DecidableEq, Repr

/-- Access rights (10_state R21). -/
inductive Access where
  | readWrite
  | readOnly
  | writeOnly
deriving DecidableEq, Repr

/-- The contents of the buffers that have been written since reset: (window offset, byte) pairs in
the form `Memory.wf`. An unlisted offset holds its unspecified reset value (`byteAt`, log 5, 17). -/
abbrev Memory := List Host.Cell

/-- Why the machine stops. No command of the spec faults (60_exceptions R172): both reasons belong
to an Engine step in a state that no run reaches. Log 12. -/
inductive Fault where
  /-- Raised by the Engine's step when `BUSY = 1` and `CMD` holds no command (10_state R45: "No other
  opcode can be in `CMD` while `BUSY = 1`"). Safe. -/
  | engineOnIllegalWord
  /-- Raised by the Engine's step when `BUSY = 1` and the check of the command in `CMD` fails
  (10_state R45: "every check a command needs was made at issue"). Safe. -/
  | engineOnUncheckedOperands (e : ErrorCode)
deriving DecidableEq, Repr

/-- Why an instruction has no meaning. -/
inductive Refusal where
  /-- Raised by an arm of `exec` that has no meaning yet. Safe. No arm raises it. -/
  | notModelled (mnemonic : String)
deriving DecidableEq, Repr

/-- The state: the registers of 10_state R20, the seven buffers, the configuration (which no step
changes), and three fields of the model's own. -/
structure State where
  /-- `CMD`, the most recently issued command word (10_state R25). -/
  cmd : Value32
  /-- `STATUS`, read whole by the Host; its fields have accessors in Flags (10_state R26). -/
  status : Value32
  /-- `ERR`, the code of a rejection (10_state R28). -/
  err : Value32
  /-- `RES`, the result of `GFMUL` and `SUBB` (10_state R24). -/
  res : Value32
  /-- `KSINFO`, describes the schedule in `RKS` (10_state R30). -/
  ksinfo : Value32
  /-- `DKLEN`, the length in bytes of the derived key in `DK` (10_state R32). -/
  dklen : Value32
  /-- `KEYBITS`, key length in bits (10_state R22). -/
  keybits : Value32
  /-- `PWLEN`, password length in bytes (10_state R22). -/
  pwlen : Value32
  /-- `SALTLEN`, salt length in bytes (10_state R22). -/
  saltlen : Value32
  /-- `ITER`, iteration count (10_state R22). -/
  iter : Value32
  /-- `OUTBITS`, output length in bits (10_state R22). -/
  outbits : Value32
  /-- `KEY`, `SIN`, `SOUT`, `RKS`, `PW`, `SALT`, `DK`, by window offset (10_state R33 to R38, 20_memory
  R56). Log 17. -/
  mem : Memory
  /-- The configuration, which no step changes (10_state R20). Log 1. -/
  params : Params
  /-- The model's own: how many resets there have been, the argument of the free value of an
  unwritten buffer byte, which does not depend on what was there before the reset: DESIGN CHOICE,
  log 5. -/
  epoch : Nat
  /-- The model's own: the steps to come, in the order they are taken (20_memory R60). Log 6. -/
  schedule : List Event
  /-- The model's own: the port's answer to the last transaction, if there was one since reset.
  Log 9. -/
  reply : Option Reply
deriving DecidableEq, Repr

/-- The state right after reset (10_state R41): registers zero, no buffer byte specified. The model's
own fields and the configuration are named in log 2, 3, 5, 6, 9. -/
def State.reset : State where
  cmd := 0
  status := 0
  err := 0
  res := 0
  ksinfo := 0
  dklen := 0
  keybits := 0
  pwlen := 0
  saltlen := 0
  iter := 0
  outbits := 0
  mem := []
  params := Params.default
  epoch := 0
  schedule := []
  reply := none

end Sys2Proof.Machine
end

