-- ==== Sys2Proof/Machine/Flags.lean ====
section
/-! DEFINITION. The flags of `STATUS` (10_state R26) and the fields of `KSINFO` (10_state R30). These
four flags are the only ones of the hardware; no command computes a condition code. -/

namespace Sys2Proof.Machine

/-- `STATUS` with only `BUSY` set (30_encoding R78). -/
def statusBusy : Value32 := 0x00000001
/-- `STATUS` with only `DONE` set (10_state R45). -/
def statusDone : Value32 := 0x00000002
/-- `STATUS` with only `ERROR` set (30_encoding R78). -/
def statusError : Value32 := 0x00000004
/-- `STATUS` with only `ABORTED` set (60_exceptions R178). -/
def statusAborted : Value32 := 0x00000008

/-- `STATUS.BUSY`, bit 0. -/
def State.busy (s : State) : Bool := s.status.getLsbD 0
/-- `STATUS.DONE`, bit 1. -/
def State.done (s : State) : Bool := s.status.getLsbD 1
/-- `STATUS.ERROR`, bit 2. -/
def State.error (s : State) : Bool := s.status.getLsbD 2
/-- `STATUS.ABORTED`, bit 3. -/
def State.aborted (s : State) : Bool := s.status.getLsbD 3

/-- `KSINFO.NK`, bits 3:0. -/
def State.ksNk (s : State) : Nat := (s.ksinfo.extractLsb' 0 4).toNat
/-- `KSINFO.NR`, bits 11:8. -/
def State.ksNr (s : State) : Nat := (s.ksinfo.extractLsb' 8 4).toNat
/-- `KSINFO.LEN`, bits 21:16. -/
def State.ksLen (s : State) : Nat := (s.ksinfo.extractLsb' 16 6).toNat
/-- `KSINFO.VALID`, bit 31. -/
def State.ksValid (s : State) : Bool := s.ksinfo.getLsbD 31

end Sys2Proof.Machine
end

