-- ==== Sys2Proof/Machine/Memory.lean ====
section
/-! DEFINITION. The buffers' memory: reading a byte, storing a run of bytes, and its canonical form. -/

namespace Sys2Proof.Machine

/-- The byte stored at an offset since reset, if any. -/
def Memory.lookup : Memory → Nat → Option Byte
  | [], _ => none
  | (a, b) :: m, x => if x = a then some b else Memory.lookup m x

/-- The cells of a run of bytes from an offset on. -/
def Memory.cells : Nat → List Byte → Memory
  | _, [] => []
  | a, b :: bs => (a, b) :: Memory.cells (a + 1) bs

/-- Store a run of bytes from `base` on. Every byte of the run stays listed, whatever its value: what
an unlisted offset holds is not known (log 5, 17). -/
def Memory.store (m : Memory) (base : Nat) (bs : List Byte) : Memory :=
  m.filter (fun c => c.1 < base) ++ Memory.cells base bs ++
    m.filter (fun c => base + bs.length ≤ c.1)

/-- The canonical form: offsets strictly rising. An unlisted offset reads as no value, so no entry
can be equal to what an unlisted offset reads as. -/
def Memory.wf (m : Memory) : Bool := decide (m.Pairwise (fun x y => x.1 < y.1))

end Sys2Proof.Machine
end

