-- ==== Sys2Proof/Machine/Prf.lean ====
section
/-! DEFINITION. The PRF's digest and the instances the spec describes (44_key_derivation R150, R151;
95_test_vectors 2.5). -/

namespace Sys2Proof.Machine

/-- `PRF.digest(ctx)`, exactly `hB` bytes; it does not change the context (44_key_derivation R150). -/
def digest {Ctx : Type} (p : Prf Ctx) (ctx : Ctx) : List Byte :=
  (List.range p.hB).map (p.digestByte ctx)

/-- The plain-digest instance of a hash function `H` given byte by byte: the context is the byte
sequence absorbed so far (44_key_derivation R151). -/
def plainPrf (hBPred : Nat) (H : List Byte → Nat → Byte) : Prf (List Byte) where
  hBPred := hBPred
  init := fun seed => seed
  update := fun ctx data => ctx ++ data
  digestByte := H

/-- The sum of a byte sequence modulo 256. -/
def byteSum (bs : List Byte) : Byte := bs.foldl (· + ·) 0

/-- `TOY16`: the digest is the byte sum and the byte count, both modulo 256, of everything absorbed
(95_test_vectors 2.5). -/
def toy16 : Prf (List Byte) :=
  plainPrf 1 (fun bs k => if k = 0 then byteSum bs else BitVec.ofNat 8 bs.length)

/-- The PRF record a configuration names (00_scope R7). -/
def prfOf : PrfChoice → Prf (List Byte)
  | .site => Config.prf
  | .toy16 => toy16

end Sys2Proof.Machine
end

