-- ==== Sys2Proof/Machine/Ops.lean ====
section
/-! DEFINITION. The named operations over registers, buffers and the address map, and the two moments
of a command: its issue (accept or reject) and its completion. -/

namespace Sys2Proof.Machine

/-! ### Byte order (20_memory R55, R56) -/

/-- The 32-bit value that carries a Word: byte k in lane k, bits [8k+7:8k] (20_memory R55). -/
def lane32 (w : Word) : Value32 := w.b3 ++ w.b2 ++ w.b1 ++ w.b0

/-- The Word a 32-bit value carries, the inverse of `lane32` (00_scope R9). -/
def wordOf (v : Value32) : Word :=
  ⟨v.extractLsb' 0 8, v.extractLsb' 8 8, v.extractLsb' 16 8, v.extractLsb' 24 8⟩

/-- `zext_32` of a Byte (00_scope R9). -/
def zext32 (b : Byte) : Value32 := b.setWidth 32

/-- `zeros(n)` (00_scope R9). -/
def zeros (n : Nat) : List Byte := List.replicate n 0

/-! ### Buffers -/

/-- The buffer byte at a window offset: what was last stored there since reset, else its unspecified
reset value (10_state R41). -/
def State.byteAt (s : State) (off : Nat) : Byte :=
  (s.mem.lookup off).getD (Config.bufferByte s.epoch off)

/-- The `n` buffer bytes from a window offset on. -/
def State.bytesAt (s : State) (off n : Nat) : List Byte :=
  (List.range n).map (fun k => s.byteAt (off + k))

/-- The four buffer bytes at a window offset, as a Word. -/
def State.wordAt (s : State) (off : Nat) : Word :=
  ⟨s.byteAt off, s.byteAt (off + 1), s.byteAt (off + 2), s.byteAt (off + 3)⟩

/-- Store a run of bytes into the buffers. -/
def State.storeBytes (s : State) (off : Nat) (bs : List Byte) : State :=
  { s with mem := s.mem.store off bs }

/-- Store all 32 bits of a value: bytes k to k+3 become `v[7:0]`, `v[15:8]`, `v[23:16]`, `v[31:24]`
(20_memory R52). -/
def State.storeValue (s : State) (off : Nat) (v : Value32) : State :=
  s.storeBytes off (wordOf v).bytes

/-! ### The address map (20_memory R54) -/

/-- The byte offset a port address stands for (20_memory R57). -/
def PortAddr.offset (a : PortAddr) : Nat := 4 * a.toNat

/-- The port address of a byte offset that is a multiple of 4 in `0x000..0xFFC`. -/
def portAddr (off : Nat) : PortAddr := BitVec.ofNat 10 (off / 4)

def Reg.offset : Reg → Nat
  | .cmd => 0x000
  | .status => 0x004
  | .err => 0x008
  | .ctrl => 0x00C
  | .res => 0x010
  | .ksinfo => 0x014
  | .hlen => 0x018
  | .dklen => 0x01C
  | .keybits => 0x020
  | .pwlen => 0x024
  | .saltlen => 0x028
  | .iter => 0x02C
  | .outbits => 0x030

def registers : List Reg :=
  [.cmd, .status, .err, .ctrl, .res, .ksinfo, .hlen, .dklen,
   .keybits, .pwlen, .saltlen, .iter, .outbits]

/-- The base offset of a buffer (20_memory R56). -/
def Buffer.base : Buffer → Nat
  | .key => 0x040
  | .sin => 0x060
  | .sout => 0x070
  | .rks => 0x100
  | .pw => 0x400
  | .salt => 0x800
  | .dk => 0xC00

/-- The size of a buffer in bytes (10_state R33 to R38). -/
def Buffer.size (p : Params) : Buffer → Nat
  | .key => 32
  | .sin => 16
  | .sout => 16
  | .rks => 240
  | .pw => p.pwMax
  | .salt => p.saltMax
  | .dk => p.dkMax

def buffers : List Buffer := [.key, .sin, .sout, .rks, .pw, .salt, .dk]

/-- The offset lies in the buffer. -/
def Buffer.holds (p : Params) (b : Buffer) (off : Nat) : Bool :=
  b.base ≤ off && off < b.base + b.size p

/-- What is mapped at an offset; none where it is unmapped (20_memory R54). -/
def locate (p : Params) (off : Nat) : Option Place :=
  match registers.find? (fun r => r.offset == off) with
  | some r => some (.reg r)
  | none => (buffers.find? (fun b => b.holds p off)).map .buf

/-- Access rights of the address map (20_memory R54). -/
def Place.access : Place → Access
  | .reg .cmd => .readWrite
  | .reg .status => .readOnly
  | .reg .err => .readOnly
  | .reg .ctrl => .writeOnly
  | .reg .res => .readOnly
  | .reg .ksinfo => .readOnly
  | .reg .hlen => .readOnly
  | .reg .dklen => .readOnly
  | .reg .keybits => .readWrite
  | .reg .pwlen => .readWrite
  | .reg .saltlen => .readWrite
  | .reg .iter => .readWrite
  | .reg .outbits => .readWrite
  | .buf .key => .readWrite
  | .buf .sin => .readWrite
  | .buf .sout => .readOnly
  | .buf .rks => .readOnly
  | .buf .pw => .readWrite
  | .buf .salt => .readWrite
  | .buf .dk => .readOnly

/-! ### Registers -/

/-- `HLEN`: the configured digest size in bits, zero-extended to 32 bits (10_state R31). Log 15. -/
def hlenValue (p : Params) : Value32 := BitVec.ofNat 32 (prfOf p.prf).hLen

/-- What a Host read of a register returns (20_memory R51). -/
def State.regValue (s : State) : Reg → Value32
  | .cmd => s.cmd
  | .status => s.status
  | .err => s.err
  | .ctrl => 0
  | .res => s.res
  | .ksinfo => s.ksinfo
  | .hlen => hlenValue s.params
  | .dklen => s.dklen
  | .keybits => s.keybits
  | .pwlen => s.pwlen
  | .saltlen => s.saltlen
  | .iter => s.iter
  | .outbits => s.outbits

/-- Store a value in an operand register, all 32 bits (10_state R22). No other register is stored by a
Host write: `CMD` is written by the issue, the rest are read-only or have no storage. -/
def State.putOperand (s : State) (r : Reg) (v : Value32) : State :=
  match r with
  | .keybits => { s with keybits := v }
  | .pwlen => { s with pwlen := v }
  | .saltlen => { s with saltlen := v }
  | .iter => { s with iter := v }
  | .outbits => { s with outbits := v }
  | .cmd | .status | .err | .ctrl | .res | .ksinfo | .hlen | .dklen => s

/-- Write `RES` (10_state R24). -/
def State.putRes (s : State) (v : Value32) : State := { s with res := v }
/-- Write `KSINFO` (10_state R30). -/
def State.putKsinfo (s : State) (v : Value32) : State := { s with ksinfo := v }
/-- Write `DKLEN` (10_state R32). -/
def State.putDklen (s : State) (v : Value32) : State := { s with dklen := v }

/-- Record the port's answer to a transaction (20_memory R50). -/
def State.answer (s : State) (r : Reply) : State := { s with reply := some r }

/-- The steps still to come. -/
def State.withSchedule (s : State) (es : List Event) : State := { s with schedule := es }

/-! ### The two moments of a command -/

/-- The number of an error (60_exceptions R170). -/
def ErrorCode.code : ErrorCode → Value32
  | .invalidKeySize => 1
  | .invalidMultiplier => 2
  | .invalidStateShape => 3
  | .invalidIterationCount => 4
  | .invalidOutputLength => 5
  | .capacityExceeded => 6
  | .illegalCommand => 7

/-- REJECTION, the hardware's exception entry: `CMD` takes the word, `ERR` the code, `STATUS` becomes
`ERROR`, nothing else changes and control goes nowhere (60_exceptions R171, R173; 30_encoding R78). -/
def State.reject (s : State) (v : Value32) (e : ErrorCode) : State :=
  { s with cmd := v, err := e.code, status := statusError }

/-- ACCEPTANCE: `CMD` takes the word, `ERR` is cleared, `STATUS` becomes `BUSY` (30_encoding R78). There
is no return from a rejection; the next acceptance is what clears its record (60_exceptions R175). -/
def State.accept (s : State) (v : Value32) : State :=
  { s with cmd := v, err := 0, status := statusBusy }

/-- The end of `EngineComplete`: `STATUS` becomes `DONE` (10_state R45). -/
def State.complete (s : State) : State := { s with status := statusDone }

/-- `Abort()` (60_exceptions R178). -/
def State.abort (s : State) : State :=
  if s.busy then { s with status := statusAborted } else s

/-- The step of one command whose word is `v`. Idle, it is the command's issue: `checked` decides
between acceptance and rejection (30_encoding R78). Busy, it is the command's completion by the
Engine: `publish` writes the results of the checked operands (10_state R45). Log 11. That a busy
command's check fails happens in no run, log 12. -/
def command {α : Type} (v : Value32) (checked : Except ErrorCode α) (publish : α → State)
    (s : State) : Host.Outcome State Fault Refusal :=
  match s.busy, checked with
  | false, .ok _ => .next (s.accept v)
  | false, .error e => .next (s.reject v e)
  | true, .ok x => .next (publish x).complete
  | true, .error e => .fault (.engineOnUncheckedOperands e)

end Sys2Proof.Machine
end

