-- ==== Sys2Proof/Machine/Operands.lean ====
section
/-! DEFINITION. The operands of the commands, read and checked: coefficients, key sizes, the key, the
columns of the State, the password and the salt. -/

namespace Sys2Proof.Machine

/-- The allowed multipliers 1, 2 and 3 (00_scope R6, 40_galois_field R101). -/
inductive Coeff where
  | one
  | two
  | three
deriving DecidableEq, Repr

/-- The coefficient a Byte operand stands for, if it is allowed (40_galois_field R103). -/
def coeffOf (b : Byte) : Option Coeff :=
  if b = 1 then some .one
  else if b = 2 then some .two
  else if b = 3 then some .three
  else none

/-- The three key lengths (42_key_schedule R120). -/
inductive KeySize where
  | k128
  | k192
  | k256
deriving DecidableEq, Repr

/-- `Nk`, the key length in Words (42_key_schedule R120). -/
def KeySize.nk : KeySize → Nat
  | .k128 => 4
  | .k192 => 6
  | .k256 => 8

/-- `Nr`, the number of rounds (42_key_schedule R120, R126). -/
def KeySize.nr (n : KeySize) : Nat := n.nk + 6

/-- The schedule length in Words, `Nb*(Nr+1)` with `Nb = 4` (42_key_schedule R120). -/
def KeySize.len (n : KeySize) : Nat := 4 * (n.nr + 1)

/-- The key size a value of `KEYBITS` stands for, compared as a full 32-bit value (42_key_schedule
R129). -/
def keySizeOf (v : Value32) : Option KeySize :=
  if v = 128 then some .k128
  else if v = 192 then some .k192
  else if v = 256 then some .k256
  else none

/-- The bytes of the key: the first `KEYBITS div 8` bytes of `KEY` (10_state R33, 42_key_schedule
R130). -/
def State.keyBytes (s : State) (n : KeySize) : List Byte := s.bytesAt Buffer.key.base (4 * n.nk)

/-- Column `c` of the input State of `MIXC` as a Word (10_state R34). -/
def State.sinColumn (s : State) (c : Nat) : Word := s.wordAt (Buffer.sin.base + 4 * c)

/-- The password, `PW[0 .. PWLEN-1]` (10_state R37, 44_key_derivation R157). -/
def State.password (s : State) : List Byte := s.bytesAt Buffer.pw.base s.pwlen.toNat

/-- The salt, `SALT[0 .. SALTLEN-1]` (10_state R37, 44_key_derivation R157). -/
def State.salt (s : State) : List Byte := s.bytesAt Buffer.salt.base s.saltlen.toNat

end Sys2Proof.Machine
end

