-- ==== Sys2Proof/Machine/KeyDerivation.lean ====
section
/-! DEFINITION. The KeyDerivation stretcher and the command `DERIVE` (44_key_derivation). It is the
reference's own construction, not standard PBKDF2 (44_key_derivation R159). -/

namespace Sys2Proof.Machine

/-- The ASCII code of a decimal digit (44_key_derivation R152; from the spec's general knowledge G3,
log 16). -/
def digitByte (d : Nat) : Byte := BitVec.ofNat 8 (0x30 + d)

/-- The decimal digits of `i` put before `acc`, with `fuel` a bound on their number. -/
def decDigits : Nat → Nat → List Byte → List Byte
  | 0, _, acc => acc
  | fuel + 1, i, acc =>
    if i < 10 then digitByte i :: acc
    else decDigits fuel (i / 10) (digitByte (i % 10) :: acc)

/-- `dec(i)`: ASCII decimal digits, most significant first, no sign, no leading zeros
(44_key_derivation R152). A number has at most as many digits as it is large, but for 0. -/
def dec (i : Nat) : List Byte := decDigits (i + 1) i []

/-- `blockCount = ceil(outputBitLength / hLen)` (44_key_derivation R153). -/
def blockCount (hLen n : Nat) : Nat := (n + hLen - 1) / hLen

/-- Bytewise XOR of two byte sequences of equal length (00_scope R10). -/
def xorBytes (x y : List Byte) : List Byte := List.zipWith (· ^^^ ·) x y

/-- The inner loop: absorb the password, XOR the digest into `T`, `c` times over one context
(44_key_derivation R154). -/
def stretch {Ctx : Type} (p : Prf Ctx) (P : List Byte) : Nat → Ctx → List Byte → List Byte
  | 0, _, T => T
  | c + 1, ctx, T => stretch p P c (p.update ctx P) (xorBytes T (digest p (p.update ctx P)))

/-- Block `i`: a fresh context seeded with the password, then `salt ++ dec(i)`, then `c` iterations
(44_key_derivation R154; 90_conflicts C3). -/
def deriveBlock {Ctx : Type} (p : Prf Ctx) (P S : List Byte) (c i : Nat) : List Byte :=
  stretch p P c (p.update (p.init P) (S ++ dec i)) (zeros p.hB)

/-- `derive(password, salt, iterationCount, outputBitLength)` (44_key_derivation R154). -/
def derive {Ctx : Type} (p : Prf Ctx) (P S : List Byte) (c n : Nat) : List Byte :=
  ((List.range (blockCount p.hLen n)).flatMap (deriveBlock p P S c)).take (n / 8)

/-- The number of bytes a `DERIVE` asks for, `OUTBITS div 8` (44_key_derivation R157). -/
def State.outBytes (s : State) : Nat := s.outbits.toNat / 8

/-- `check_DERIVE`: the first check that fails decides the code (44_key_derivation R156). -/
def checkDerive (s : State) : Except ErrorCode Unit :=
  if s.iter.toNat = 0 then .error .invalidIterationCount
  else if s.outbits.toNat = 0 ∨ s.outbits.toNat % 8 ≠ 0 then .error .invalidOutputLength
  else if s.pwlen.toNat > s.params.pwMax ∨ s.saltlen.toNat > s.params.saltMax ∨
      s.outBytes > s.params.dkMax then .error .capacityExceeded
  else .ok ()

/-- The key a state's operands derive (44_key_derivation R157). -/
def State.derivedKey (s : State) : List Byte :=
  derive (prfOf s.params.prf) s.password s.salt s.iter.toNat s.outbits.toNat

/-- `complete_DERIVE` but for `STATUS`: the derived key, then zeros to the end of `DK`
(44_key_derivation R157). -/
def publishDerive (s : State) : State :=
  (s.storeBytes Buffer.dk.base (s.derivedKey ++ zeros (s.params.dkMax - s.outBytes))).putDklen
    (BitVec.ofNat 32 s.outBytes)

/-- `DERIVE` (44_key_derivation R157). -/
def execDerive (s : State) : Host.Outcome State Fault Refusal :=
  command (encode .derive) (checkDerive s) (fun _ => publishDerive s) s

end Sys2Proof.Machine
end

