-- ==== Sys2Proof/Machine/GaloisField.lean ====
section
/-! DEFINITION. The GaloisField multiplier and the command `GFMUL` (40_galois_field). -/

namespace Sys2Proof.Machine

/-- Multiplication by 2: the byte shifted left within 8 bits, with the reduction constant `0x1b` XORed
in when bit 7 of the original was set (40_galois_field R102). -/
def xtime (a : Byte) : Byte := (a <<< 1) ^^^ (if a &&& 0x80 ≠ 0 then 0x1b else 0x00)

/-- `gmul(a, b)` for an allowed coefficient (40_galois_field R101). -/
def gmul (a : Byte) : Coeff → Byte
  | .one => a
  | .two => xtime a
  | .three => xtime a ^^^ a

/-- `check_GFMUL`: the coefficient, or `InvalidMultiplier` (40_galois_field R103). -/
def checkGfmul (b : Byte) : Except ErrorCode Coeff :=
  match coeffOf b with
  | some c => .ok c
  | none => .error .invalidMultiplier

/-- `GFMUL a, b` (40_galois_field R104). -/
def execGfmul (a b : Byte) (s : State) : Host.Outcome State Fault Refusal :=
  command (encode (.gfmul a b)) (checkGfmul b) (fun c => s.putRes (zext32 (gmul a c))) s

end Sys2Proof.Machine
end

