-- ==== Sys2Proof/Machine/KeySchedule.lean ====
section
/-! DEFINITION. The KeySchedule expander and the command `KEXP` (42_key_schedule). -/

namespace Sys2Proof.Machine

/-- `RotWord`: the four bytes rotated left by one position (42_key_schedule R122). -/
def rotWord (w : Word) : Word := ⟨w.b1, w.b2, w.b3, w.b0⟩

/-- `XorWord`: bytewise XOR (42_key_schedule R123). -/
def xorWord (v w : Word) : Word :=
  ⟨v.b0 ^^^ w.b0, v.b1 ^^^ w.b1, v.b2 ^^^ w.b2, v.b3 ^^^ w.b3⟩

/-- The first bytes of the `RCON` ROM, indices 0 to 10 (42_key_schedule R124; from the spec's general
knowledge G2, log 16). -/
def rconTable : List Byte :=
  [0x00, 0x01, 0x02, 0x04, 0x08, 0x10, 0x20, 0x40, 0x80, 0x1b, 0x36]

/-- `Rcon(j)`: the other three bytes are zero (42_key_schedule R124). The index never exceeds 10
(42_key_schedule R120). -/
def rcon (j : Nat) : Word := ⟨rconTable.getD j 0, 0, 0, 0⟩

/-- The KeyBlock: the key sliced into 4-byte groups (42_key_schedule R121). -/
def keyBlock (nk : Nat) (key : List Byte) : List Word :=
  (List.range nk).map (fun k =>
    ⟨key.getD (4 * k) 0, key.getD (4 * k + 1) 0, key.getD (4 * k + 2) 0, key.getD (4 * k + 3) 0⟩)

/-- `temp` of the loop body for word `i`, from the previous word: rotated, substituted and XORed with
the round constant; only substituted; or unchanged (42_key_schedule R126). -/
def scheduleTemp (nk i : Nat) (prev : Word) : Word :=
  if i % nk = 0 then xorWord (subWord (rotWord prev)) (rcon (i / nk))
  else if nk > 6 ∧ i % nk = 4 then subWord prev
  else prev

/-- The loop body: `w[i]` from `w[0 .. i-1]` (42_key_schedule R126). -/
def nextWord (nk : Nat) (w : List Word) : Word :=
  xorWord (w.getD (w.length - nk) Word.zero)
    (scheduleTemp nk w.length (w.getD (w.length - 1) Word.zero))

/-- The loop: extend the schedule by a number of words (42_key_schedule R126). -/
def extendSchedule (nk : Nat) : Nat → List Word → List Word
  | 0, w => w
  | k + 1, w => extendSchedule nk k (w ++ [nextWord nk w])

/-- `expand(key)` for a key of `4*Nk` bytes (42_key_schedule R126). -/
def expand (n : KeySize) (key : List Byte) : List Word :=
  extendSchedule n.nk (n.len - n.nk) (keyBlock n.nk key)

/-- The value `KEXP` writes to `KSINFO`: `0x80000000 | (L << 16) | (Nr << 8) | Nk` (42_key_schedule
R130). -/
def ksinfoValue (n : KeySize) : Value32 :=
  0x80000000 ||| (BitVec.ofNat 32 n.len <<< 16) ||| (BitVec.ofNat 32 n.nr <<< 8) |||
    BitVec.ofNat 32 n.nk

/-- The 240 bytes `KEXP` writes to `RKS`: the schedule, then zeros (42_key_schedule R130). -/
def rksImage (n : KeySize) (key : List Byte) : List Byte :=
  (expand n key).flatMap Word.bytes ++ zeros (240 - 4 * n.len)

/-- `check_KEXP`: the key size, or `InvalidKeySize` (42_key_schedule R129). -/
def checkKexp (s : State) : Except ErrorCode KeySize :=
  match keySizeOf s.keybits with
  | some n => .ok n
  | none => .error .invalidKeySize

/-- `complete_KEXP` but for `STATUS` (42_key_schedule R130). -/
def publishKexp (s : State) (n : KeySize) : State :=
  (s.storeBytes Buffer.rks.base (rksImage n (s.keyBytes n))).putKsinfo (ksinfoValue n)

/-- `KEXP` (42_key_schedule R130). -/
def execKexp (s : State) : Host.Outcome State Fault Refusal :=
  command (encode .kexp) (checkKexp s) (publishKexp s) s

end Sys2Proof.Machine
end

