-- ==== Sys2Proof/Machine/MixColumns.lean ====
section
/-! DEFINITION. The MixColumns datapath and the command `MIXC` (43_mix_columns). -/

namespace Sys2Proof.Machine

/-- `mixColumn`: one column, top to bottom (43_mix_columns R140). -/
def mixColumn (w : Word) : Word :=
  ⟨gmul w.b0 .two ^^^ gmul w.b1 .three ^^^ w.b2 ^^^ w.b3,
   w.b0 ^^^ gmul w.b1 .two ^^^ gmul w.b2 .three ^^^ w.b3,
   w.b0 ^^^ w.b1 ^^^ gmul w.b2 .two ^^^ gmul w.b3 .three,
   gmul w.b0 .three ^^^ w.b1 ^^^ w.b2 ^^^ gmul w.b3 .two⟩

/-- `mixColumns`: each of the columns on its own (43_mix_columns R141). -/
def mixColumns (cols : List Word) : List Word := cols.map mixColumn

/-- `check_MIXC` always passes: the State is 4x4 by construction (43_mix_columns R143). -/
def checkMixc : Except ErrorCode Unit := .ok ()

/-- The four columns of `SIN` (10_state R34). -/
def State.sinColumns (s : State) : List Word := (List.range 4).map s.sinColumn

/-- `complete_MIXC` but for `STATUS` (43_mix_columns R144). -/
def publishMixc (s : State) : State :=
  s.storeBytes Buffer.sout.base ((mixColumns s.sinColumns).flatMap Word.bytes)

/-- `MIXC` (43_mix_columns R144). -/
def execMixc (s : State) : Host.Outcome State Fault Refusal :=
  command (encode .mixc) checkMixc (fun _ => publishMixc s) s

end Sys2Proof.Machine
end

