-- ==== Sys2Proof/Machine/Check.lean ====
section
/-! DEFINITION. The check of a command made at its issue (30_encoding R78), for the state's invariant:
the meanings call the same check functions. -/

namespace Sys2Proof.Machine

/-- The error of a check, if it fails. -/
def errorOf {α : Type} : Except ErrorCode α → Option ErrorCode
  | .ok _ => none
  | .error e => some e

/-- The command's own check against a state (30_encoding R78, 60_exceptions R174). -/
def check (i : Instr) (s : State) : Option ErrorCode :=
  match i with
  | .gfmul _ b => errorOf (checkGfmul b)
  | .subb _ => errorOf checkSubb
  | .kexp => errorOf (checkKexp s)
  | .mixc => errorOf checkMixc
  | .derive => errorOf (checkDerive s)

end Sys2Proof.Machine
end

