-- ==== Sys2Proof/Machine/Dispatch.lean ====
section
/-! DEFINITION. One arm for each command. -/

namespace Sys2Proof.Machine

def exec (i : Instr) (s : State) : Host.Outcome State Fault Refusal :=
  match i with
  | .gfmul a b => Sys2Proof.Machine.execGfmul a b s
  | .subb a => Sys2Proof.Machine.execSubb a s
  | .kexp => Sys2Proof.Machine.execKexp s
  | .mixc => Sys2Proof.Machine.execMixc s
  | .derive => Sys2Proof.Machine.execDerive s

end Sys2Proof.Machine
end

