-- ==== Sys2Proof/Machine/Port.lean ====
section
/-! DEFINITION. The four steps of the hardware (00_scope R13): `HostRead`, `HostWrite`,
`EngineComplete`, `Reset`. -/

namespace Sys2Proof.Machine

/-- What a Host read of a mapped offset returns (20_memory R51). -/
def State.placeValue (s : State) (off : Nat) : Place → Value32
  | .reg r => s.regValue r
  | .buf _ => lane32 (s.wordAt off)

/-- The port's answer to a read: allowed in every state, `ERROR` and zero where nothing is mapped
(20_memory R51, R53). -/
def State.readReply (s : State) (a : PortAddr) : Reply :=
  match locate s.params a.offset with
  | some p => .read .okay (s.placeValue a.offset p)
  | none => .read .error 0

/-- `HostRead(off)` (20_memory R51). A read changes nothing but the answer on the port. -/
def hostRead (a : PortAddr) (s : State) : Host.Outcome State Fault Refusal :=
  .next (s.answer (s.readReply a))

/-- `Issue(v)`: the command's own issue, or a rejection with `IllegalCommand` (30_encoding R76, R78). -/
def issue (v : Value32) (s : State) : Host.Outcome State Fault Refusal :=
  match decodeWord v with
  | .ok i => exec i s
  | .error _ => .next (s.reject v .illegalCommand)

/-- What a Host write of a mapped place that is neither read-only nor `CTRL` does when the Engine is
idle: issue a command, or store all 32 bits (20_memory R52). -/
def writePlace (off : Nat) (v : Value32) (p : Place) (s : State) :
    Host.Outcome State Fault Refusal :=
  match p with
  | .reg .cmd => issue v s
  | .reg r => .next (s.putOperand r v)
  | .buf _ => .next (s.storeValue off v)

/-- `HostWrite(off, v)` (20_memory R52): `CTRL` always; else refused where unmapped, read-only or busy,
in that order; else performed. -/
def hostWrite (a : PortAddr) (v : Value32) (s : State) : Host.Outcome State Fault Refusal :=
  if a.offset = Reg.ctrl.offset then
    .next ((if v.getLsbD 0 then s.abort else s).answer (.write .okay))
  else
    match locate s.params a.offset with
    | none => .next (s.answer (.write .error))
    | some p =>
      if p.access = .readOnly then .next (s.answer (.write .error))
      else if s.busy then .next (s.answer (.write .error))
      else writePlace a.offset v p (s.answer (.write .okay))

/-- `EngineComplete` (10_state R45) for a busy Engine: the command word is read from `CMD` and its
command completed. -/
def engineComplete (s : State) : Host.Outcome State Fault Refusal :=
  match decodeWord s.cmd with
  | .ok i => exec i s
  | .error _ => .fault .engineOnIllegalWord

/-- The Engine's turn: `EngineComplete` where it is enabled, else nothing (10_state R45; log 7, 8). -/
def engineTurn (s : State) : Host.Outcome State Fault Refusal :=
  if s.busy then engineComplete s else .next s

/-- `Reset` (70_reset_and_hazards R190): the registers zero, the buffers unspecified anew, a running
command discarded (R191). The configuration and what the outside world has yet to do stay. -/
def resetStep (s : State) : State :=
  { State.reset with params := s.params, epoch := s.epoch + 1, schedule := s.schedule }

/-- One scheduled step. -/
def deliver (e : Event) (s : State) : Host.Outcome State Fault Refusal :=
  match e with
  | .hostRead a => hostRead a s
  | .hostWrite a v => hostWrite a v s
  | .engine => engineTurn s
  | .reset => .next (resetStep s)

/-- The command word `w % 2^nbits`, the bits above zero. -/
def tableWord (nbits w : Nat) : Value32 := BitVec.ofNat 32 (w % 2 ^ nbits)

/-- `s` with the Host's write of a command word to `CMD` first in the schedule, and the Engine idle so
that the write issues it. Log 13. -/
def scheduleCommand (s : State) (v : Value32) : State :=
  { s with
    status := if s.busy then 0 else s.status
    schedule := .hostWrite (portAddr Reg.cmd.offset) v :: s.schedule }

end Sys2Proof.Machine
end

