-- ==== Sys2Proof/Machine/Step.lean ====
section
/-! DEFINITION. One step of the machine. -/

namespace Sys2Proof.Machine

/-- One step: the next scheduled one; with nothing scheduled, the Engine's turn (20_memory R60,
70_reset_and_hazards R197; log 6, 7). -/
def step (s : State) : Host.Outcome State Fault Refusal :=
  match s.schedule with
  | e :: rest => deliver e (s.withSchedule rest)
  | [] => engineTurn s

/-- `s` where the next step issues the command of `nbits` bits whose value is `w`. Commands are written
by the Host, never fetched (10_state R23); log 13. -/
def State.withFetchWord (s : State) (nbits w : Nat) : State :=
  scheduleCommand s (tableWord nbits w)

end Sys2Proof.Machine
end

