-- ==== Sys2Proof/WellFormed.lean ====
section
/-! DEFINITION. What is well formed: a command, a command word, a configuration. -/

namespace Sys2Proof

/-- A row of the opcode map: a word `v` is the row's command exactly when `v & mask == pattern`
(30_encoding R75). -/
structure OpRow where
  mnemonic : String
  pattern : Value32
  mask : Value32
deriving DecidableEq, Repr

/-- The row of a command, from the table of 30_encoding R75. -/
def Instr.row : Instr → OpRow
  | .gfmul _ _ => ⟨"GFMUL", 0x01000000, 0xFFFF0000⟩
  | .subb _ => ⟨"SUBB", 0x02000000, 0xFFFFFF00⟩
  | .kexp => ⟨"KEXP", 0x03000000, 0xFFFFFFFF⟩
  | .mixc => ⟨"MIXC", 0x04000000, 0xFFFFFFFF⟩
  | .derive => ⟨"DERIVE", 0x05000000, 0xFFFFFFFF⟩

/-- The whole opcode map (30_encoding R75). -/
def opcodeMap : List OpRow :=
  [Instr.row (.gfmul 0 0), Instr.row (.subb 0), Instr.row .kexp, Instr.row .mixc, Instr.row .derive]

/-- The word `v` is the command of the row (30_encoding R75). -/
def OpRow.accepts (r : OpRow) (v : Value32) : Bool := v &&& r.mask == r.pattern

/-- A command word is legal when some row accepts it (30_encoding R76). -/
def legalWord (v : Value32) : Bool := opcodeMap.any (·.accepts v)

/-- Every command is well formed: its operands are Bytes by type, and every Byte is a legal encoding
of each operand (30_encoding R72, R76: "`GFMUL` with `b` outside {1, 2, 3} is a legal encoding").
DEDUCED, log 19. -/
def Instr.wellFormed : Instr → Bool
  | .gfmul _ _ => true
  | .subb _ => true
  | .kexp => true
  | .mixc => true
  | .derive => true

/-- A buffer capacity is a multiple of 4 from 4 to 1024 (00_scope R8). -/
def legalCapacity (n : Nat) : Bool := n % 4 == 0 && 4 ≤ n && n ≤ 1024

/-- A configuration is well formed when its three capacities are legal (00_scope R8). The PRF's
constraints (00_scope R7) hold by the type `Prf`. -/
def Params.wellFormed (p : Params) : Bool :=
  legalCapacity p.pwMax && legalCapacity p.saltMax && legalCapacity p.dkMax

end Sys2Proof
end

