-- ==== Sys2Proof/Safety.lean ====
section
/-! DEFINITION. The invariant of the machine (95_test_vectors V51 and the rules it gathers) and what a
safe run is. -/

namespace Sys2Proof.Machine

/-- The offset is a byte of one of the seven buffers. -/
def inBuffers (p : Params) (off : Nat) : Bool := buffers.any (fun b => b.holds p off)

/-- What holds at reset and is kept by every step. -/
structure Inv (s : State) : Prop where
  /-- The capacities are legal (00_scope R8). -/
  paramsLegal : s.params.wellFormed = true
  /-- The buffers' memory has its canonical form. -/
  memCanonical : s.mem.wf = true
  /-- Only bytes of the seven buffers are listed (20_memory R54). -/
  memMapped : ∀ c ∈ s.mem, inBuffers s.params c.1 = true
  /-- At most one flag is 1, and the reserved bits are 0 (10_state R26, R27). -/
  statusOneHot : s.status ∈ [0, statusBusy, statusDone, statusError, statusAborted]
  /-- `ERR` holds 0 or a code that something raises: never 3, never 8 to 15 (60_exceptions R170). -/
  errRaised : s.err ∈ ([0, 1, 2, 4, 5, 6, 7] : List Value32)
  /-- `ERR != 0` exactly when `STATUS.ERROR = 1` (10_state R28). -/
  errIffError : s.err ≠ 0 ↔ s.error = true
  /-- While busy, `CMD` holds a command whose check passes (10_state R45, 95_test_vectors V51). -/
  busyChecked : s.busy = true → ∃ i, decodeWord s.cmd = .ok i ∧ check i s = none
  /-- `RES` bits [31:8] are 0 (10_state R24). -/
  resByte : s.res.toNat < 256
  /-- `KSINFO` takes only four values (10_state R30). -/
  ksinfoLegal : s.ksinfo ∈ ([0x00000000, 0x802c0a04, 0x80340c06, 0x803c0e08] : List Value32)
  /-- `DKLEN <= DK_MAX` (10_state R32, 44_key_derivation R157). -/
  dklenFits : s.dklen.toNat ≤ s.params.dkMax
  /-- `RKS[i] = 0` beyond the schedule, once a `KEXP` has completed (10_state R36). -/
  rksTail : s.ksValid = true → ∀ i, s.ksLen ≤ i → i < 60 →
    s.wordAt (Buffer.rks.base + 4 * i) = Word.zero
  /-- `DK[k] = 0` beyond the derived key, once a `DERIVE` has completed (10_state R38). -/
  dkTail : s.dklen ≠ 0 → ∀ k, s.dklen.toNat ≤ k → k < s.params.dkMax →
    s.byteAt (Buffer.dk.base + k) = 0

/-- A safe run: however many steps are taken, no fault and no refusal. -/
def RunsSafely (s : State) : Prop := ∀ k, ∃ t, Host.Core.run Sys2Proof.core k s = .next t

end Sys2Proof.Machine
end

