-- ==== Sys2Proof/Certificates/Slice0/Obligations.lean ====
section
/-! DEFINITION. The statements about the model. Each names the rule of spec/ it formalises. A statement
quantifies over every state, hence over every configuration and every value of a free value, unless it
says otherwise. -/

open Sys2Proof Sys2Proof.Machine

namespace Sys2Proof.Claims

/-- The error code of `Check(v)`, 0 for none, as 30_encoding R78 writes it with the masks of R75 and
the checks of 40_galois_field R103, 42_key_schedule R129, 43_mix_columns R143 and 44_key_derivation
R156. -/
def issueCode (v : Value32) (s : State) : Value32 :=
  if v &&& 0xFFFF0000 = 0x01000000 then
    (if (v >>> 8) &&& 0xFF = 1 ∨ (v >>> 8) &&& 0xFF = 2 ∨ (v >>> 8) &&& 0xFF = 3 then 0 else 2)
  else if v &&& 0xFFFFFF00 = 0x02000000 then 0
  else if v = 0x03000000 then
    (if s.keybits = 128 ∨ s.keybits = 192 ∨ s.keybits = 256 then 0 else 1)
  else if v = 0x04000000 then 0
  else if v = 0x05000000 then
    (if s.iter = 0 then 4
     else if s.outbits = 0 ∨ s.outbits % 8 ≠ 0 then 5
     else if s.pwlen.toNat > s.params.pwMax ∨ s.saltlen.toNat > s.params.saltMax ∨
        s.outbits.toNat / 8 > s.params.dkMax then 6
     else 0)
  else 7

/-- The unmapped offsets, as the prose of 20_memory R54 lists them. -/
def unmapped (p : Params) (off : Nat) : Prop :=
  (0x034 ≤ off ∧ off ≤ 0x03C) ∨ (0x080 ≤ off ∧ off ≤ 0x0FC) ∨ (0x1F0 ≤ off ∧ off ≤ 0x3FC) ∨
  (0x400 + p.pwMax ≤ off ∧ off ≤ 0x7FC) ∨ (0x800 + p.saltMax ≤ off ∧ off ≤ 0xBFC) ∨
  (0xC00 + p.dkMax ≤ off ∧ off ≤ 0xFFC)

/-- The read-only offsets of 20_memory R54. -/
def mappedReadOnly (p : Params) (off : Nat) : Prop :=
  off ∈ [0x004, 0x008, 0x010, 0x014, 0x018, 0x01C] ∨ (0x070 ≤ off ∧ off ≤ 0x07C) ∨
  (0x100 ≤ off ∧ off ≤ 0x1EC) ∨ (0xC00 ≤ off ∧ off < 0xC00 + p.dkMax)

/-- The offsets of the buffers a Host may write: `KEY`, `SIN`, `PW`, `SALT` (20_memory R54). -/
def writableBuffer (p : Params) (off : Nat) : Prop :=
  (0x040 ≤ off ∧ off ≤ 0x06C) ∨ (0x400 ≤ off ∧ off < 0x400 + p.pwMax) ∨
  (0x800 ≤ off ∧ off < 0x800 + p.saltMax)

/-- The offset lies in a result buffer: `SOUT`, `RKS` or `DK` (20_memory R54). -/
def inResultBuffer (p : Params) (off : Nat) : Prop :=
  (0x070 ≤ off ∧ off < 0x080) ∨ (0x100 ≤ off ∧ off < 0x1F0) ∨ (0xC00 ≤ off ∧ off < 0xC00 + p.dkMax)

/-- A transaction of the Host that is not an abort (20_memory R52, 60_exceptions R178). -/
def isPlainTransaction : Event → Prop
  | .hostRead _ => True
  | .hostWrite a v => ¬(a.offset = 0x00C ∧ v.getLsbD 0 = true)
  | .engine => False
  | .reset => False

/-- An event that neither aborts nor resets. -/
def spares : Event → Prop
  | .hostRead _ => True
  | .hostWrite a v => ¬(a.offset = 0x00C ∧ v.getLsbD 0 = true)
  | .engine => True
  | .reset => False

/-- `gmul(a, b)` on numbers, as 40_galois_field R101 and R102 write it. -/
def gmulNat (a b : Nat) : Nat :=
  if b = 1 then a
  else if b = 2 then ((a <<< 1) &&& 0xff) ^^^ (if a &&& 0x80 ≠ 0 then 0x1b else 0x00)
  else ((a <<< 1) &&& 0xff) ^^^ (if a &&& 0x80 ≠ 0 then 0x1b else 0x00) ^^^ a

/-- General multiplication in the field: the XOR over the set bits k of `b` of `xtime^k(a)`
(40_galois_field R106). -/
def gfull (a b : Byte) : Byte :=
  (List.range 8).foldl (fun acc k => if b.getLsbD k then acc ^^^ xtime^[k] a else acc) 0

/-- Entry k of row r of the MixColumns matrix (00_scope R6, 43_mix_columns R140). -/
def mixMatrix (r k : Nat) : Byte :=
  (([[2, 3, 1, 1], [1, 2, 3, 1], [1, 1, 2, 3], [3, 1, 1, 2]] : List (List Byte)).getD r []).getD k 0

/-- The value of `KSINFO` for each key length (10_state R30). -/
def ksinfoOf : KeySize → Value32
  | .k128 => 0x802c0a04
  | .k192 => 0x80340c06
  | .k256 => 0x803c0e08

/-- The value a sequence of ASCII decimal digits has. -/
def decimalValue (ds : List Byte) : Nat := ds.foldl (fun n d => 10 * n + (d.toNat - 0x30)) 0

end Sys2Proof.Claims

open Sys2Proof.Claims

/-! ### Encoding -/

/-- Decoding and encoding are inverse of each other, over all commands and all words (30_encoding R71,
R75, R79). -/
def Obligations.DecodeAndEncodeAgree : Prop :=
  (∀ i : Instr, decodeWord (encode i) = .ok i) ∧
  (∀ (v : Value32) (i : Instr), decodeWord v = .ok i → encode i = v)

/-- A word is the command of a row exactly when `v & mask == match`, with `a = v[7:0]` and `b = v[15:8]`;
at most one row matches (30_encoding R75). -/
def Obligations.DecoderFollowsOpcodeMap : Prop :=
  ∀ v : Value32,
    (∀ a b, decodeWord v = .ok (.gfmul a b) ↔
      v &&& 0xFFFF0000 = 0x01000000 ∧ a = v.extractLsb' 0 8 ∧ b = v.extractLsb' 8 8) ∧
    (∀ a, decodeWord v = .ok (.subb a) ↔
      v &&& 0xFFFFFF00 = 0x02000000 ∧ a = v.extractLsb' 0 8) ∧
    (decodeWord v = .ok .kexp ↔ v &&& 0xFFFFFFFF = 0x03000000) ∧
    (decodeWord v = .ok .mixc ↔ v &&& 0xFFFFFFFF = 0x04000000) ∧
    (decodeWord v = .ok .derive ↔ v &&& 0xFFFFFFFF = 0x05000000)

/-- A word decodes exactly when some row of the opcode map accepts it, and then no other row does
(30_encoding R75, R76). -/
def Obligations.EveryOtherWordIsIllegal : Prop :=
  ∀ v : Value32,
    ((∃ i, decodeWord v = .ok i) ↔ legalWord v = true) ∧
    (∀ r ∈ opcodeMap, ∀ r' ∈ opcodeMap, r.accepts v = true → r'.accepts v = true → r = r')

/-- The words of 95_test_vectors V40 decode to the commands they stand for, and words of V41 are refused
by name. -/
def Obligations.SpecWordsDecode : Prop :=
  decodeWord 0x01000257 = .ok (.gfmul 0x57 2) ∧ decodeWord 0x0100ffff = .ok (.gfmul 0xff 0xff) ∧
  decodeWord 0x02000053 = .ok (.subb 0x53) ∧ decodeWord 0x03000000 = .ok .kexp ∧
  decodeWord 0x04000000 = .ok .mixc ∧ decodeWord 0x05000000 = .ok .derive ∧
  decodeWord 0x06000000 = .error .unassignedOpcode ∧ decodeWord 0x01010257 = .error .zNotZero ∧
  decodeWord 0x02000153 = .error .bNotZero ∧ decodeWord 0x03000001 = .error .aNotZero

/-! ### Byte order -/

/-- Byte k of a Word is lane k of its 32-bit value, the first byte least significant; and byte k of a
buffer lies in the word at `base + 4 * (k div 4)`, lane `k mod 4` (20_memory R55, R56). -/
def Obligations.BytesLieInLittleEndianLanes : Prop :=
  (∀ w : Word, (lane32 w).toNat =
    w.b0.toNat + w.b1.toNat * 2 ^ 8 + w.b2.toNat * 2 ^ 16 + w.b3.toNat * 2 ^ 24) ∧
  (∀ (s : State) (base k : Nat), s.byteAt (base + k) =
    (lane32 (s.wordAt (base + 4 * (k / 4)))).extractLsb' (8 * (k % 4)) 8)

/-! ### The host port -/

/-- `HostRead`: every mapped offset answers `OKAY` and its value, every unmapped one `ERROR` and zero, in
every state, and nothing else changes (20_memory R51, with the map of R54; 10_state R31). That `HLEN`
shows the digest size modulo 2^32, there being no bound on it, is the model's choice, log 15. -/
def Obligations.HostReadAnswersTheMap : Prop :=
  ∀ (s : State) (rest : List Event), s.params.wellFormed = true →
    let rd (off : Nat) (r : Reply) : Prop :=
      step { s with schedule := .hostRead (portAddr off) :: rest } =
        .next { s with schedule := rest, reply := some r }
    let word (off : Nat) : Prop := rd off (.read .okay (lane32 (s.wordAt off)))
    rd 0x000 (.read .okay s.cmd) ∧ rd 0x004 (.read .okay s.status) ∧ rd 0x008 (.read .okay s.err) ∧
    rd 0x00C (.read .okay 0) ∧ rd 0x010 (.read .okay s.res) ∧ rd 0x014 (.read .okay s.ksinfo) ∧
    rd 0x018 (.read .okay (BitVec.ofNat 32 (prfOf s.params.prf).hLen)) ∧
    rd 0x01C (.read .okay s.dklen) ∧ rd 0x020 (.read .okay s.keybits) ∧
    rd 0x024 (.read .okay s.pwlen) ∧ rd 0x028 (.read .okay s.saltlen) ∧
    rd 0x02C (.read .okay s.iter) ∧ rd 0x030 (.read .okay s.outbits) ∧
    (∀ i < 8, word (0x040 + 4 * i)) ∧ (∀ c < 4, word (0x060 + 4 * c)) ∧
    (∀ c < 4, word (0x070 + 4 * c)) ∧ (∀ i < 60, word (0x100 + 4 * i)) ∧
    (∀ n, 4 * n < s.params.pwMax → word (0x400 + 4 * n)) ∧
    (∀ n, 4 * n < s.params.saltMax → word (0x800 + 4 * n)) ∧
    (∀ n, 4 * n < s.params.dkMax → word (0xC00 + 4 * n)) ∧
    (∀ off, off % 4 = 0 → unmapped s.params off → rd off (.read .error 0))

/-- A write that is not to `CTRL` is answered `ERROR` and changes nothing when its offset is unmapped or
read-only, or the Engine is busy (20_memory R52, R53). -/
def Obligations.HostWriteRefusalsChangeNothing : Prop :=
  ∀ (s : State) (rest : List Event) (off : Nat) (v : Value32),
    s.params.wellFormed = true → off % 4 = 0 → off ≤ 0xFFC → off ≠ 0x00C →
    (unmapped s.params off ∨ mappedReadOnly s.params off ∨ s.busy = true) →
    step { s with schedule := .hostWrite (portAddr off) v :: rest } =
      .next { s with schedule := rest, reply := some (.write .error) }

/-- A write of an operand register or of a word of `KEY`, `SIN`, `PW`, `SALT` while idle is answered
`OKAY` and stores all 32 bits there and nowhere else (20_memory R52, 10_state R22). -/
def Obligations.HostWriteStoresTheWord : Prop :=
  ∀ (s : State) (rest : List Event) (v : Value32),
    s.params.wellFormed = true → s.busy = false →
    let wr (off : Nat) (t : State) : Prop :=
      step { s with schedule := .hostWrite (portAddr off) v :: rest } =
        .next { t with schedule := rest, reply := some (.write .okay) }
    wr 0x020 { s with keybits := v } ∧ wr 0x024 { s with pwlen := v } ∧
    wr 0x028 { s with saltlen := v } ∧ wr 0x02C { s with iter := v } ∧
    wr 0x030 { s with outbits := v } ∧
    (∀ off, off % 4 = 0 → writableBuffer s.params off →
      ∃ m : Memory, wr off { s with mem := m } ∧
        (∀ k < 4, State.byteAt { s with mem := m } (off + k) = v.extractLsb' (8 * k) 8) ∧
        (∀ x, ¬(off ≤ x ∧ x < off + 4) → State.byteAt { s with mem := m } x = s.byteAt x))

/-- A write to `CMD` while idle issues the word: `CMD` takes it; `Check` decides; `ERR` takes its code;
`STATUS` becomes `ERROR` or `BUSY`; nothing else changes (30_encoding R78). -/
def Obligations.IssueFollowsCheck : Prop :=
  ∀ (s : State) (rest : List Event) (v : Value32), s.busy = false →
    step { s with schedule := .hostWrite (portAddr 0x000) v :: rest } =
      .next { s with
        cmd := v
        err := issueCode v s
        status := if issueCode v s = 0 then 0x00000001 else 0x00000004
        schedule := rest
        reply := some (.write .okay) }

/-- `CTRL`: a write with bit 0 set aborts a busy command and does nothing to an idle Engine; with bit 0
clear it does nothing; the other bits are ignored; the answer is `OKAY`, also while busy; a read gives 0
(10_state R29, 60_exceptions R178). -/
def Obligations.CtrlAbortsTheBusyCommand : Prop :=
  ∀ (s : State) (rest : List Event) (v : Value32),
    step { s with schedule := .hostWrite (portAddr 0x00C) v :: rest } =
      .next { s with
        status := if v.getLsbD 0 = true ∧ s.busy = true then 0x00000008 else s.status
        schedule := rest
        reply := some (.write .okay) } ∧
    step { s with schedule := .hostRead (portAddr 0x00C) :: rest } =
      .next { s with schedule := rest, reply := some (.read .okay 0x00000000) }

/-- What the Host writes to `CMD`, an operand register or a writable buffer word of an idle machine it
reads back (20_memory R60 (a), 10_state R22, R25). -/
def Obligations.WriteThenReadReturnsTheValue : Prop :=
  ∀ (s : State) (rest : List Event) (off : Nat) (v : Value32),
    s.params.wellFormed = true → s.busy = false → off % 4 = 0 →
    (off ∈ [0x000, 0x020, 0x024, 0x028, 0x02C, 0x030] ∨ writableBuffer s.params off) →
    ∃ t, Host.Core.run Sys2Proof.core 2
        { s with schedule := .hostWrite (portAddr off) v :: .hostRead (portAddr off) :: rest } =
          .next t ∧
      t.reply = some (.read .okay v)

/-! ### The commands -/

/-- Each of the five commands at an idle Engine is accepted or rejected as `Check` says, and nothing but
`CMD`, `ERR` and `STATUS` changes (30_encoding R78, 60_exceptions R173). -/
def Obligations.EveryCommandIssues : Prop :=
  ∀ (i : Instr) (s : State), s.busy = false →
    exec i s = .next { s with
      cmd := encode i
      err := issueCode (encode i) s
      status := if issueCode (encode i) s = 0 then 0x00000001 else 0x00000004 }

/-- `GFMUL a, b` completes with `RES = gmul(a, b)`, by the formulas of 40_galois_field R101 and R102, and
changes nothing else but `STATUS` (40_galois_field R104). -/
def Obligations.GfmulCompletes : Prop :=
  ∀ (a b : Byte) (s : State), s.busy = true → (b = 1 ∨ b = 2 ∨ b = 3) →
    exec (.gfmul a b) s =
      .next { s with res := BitVec.ofNat 32 (gmulNat a.toNat b.toNat), status := 0x00000002 }

/-- The laws of the multiplier: `gmul(a,1) = a`; `gmul(a,3) = gmul(a,2) ^ a`; linearity over XOR; doubling
is a bijection (40_galois_field R105). -/
def Obligations.MultiplierLaws : Prop :=
  (∀ a, gmul a .one = a) ∧ (∀ a, gmul a .three = gmul a .two ^^^ a) ∧
  (∀ a a' c, gmul (a ^^^ a') c = gmul a c ^^^ gmul a' c) ∧ Function.Bijective xtime

/-- For the coefficients 1, 2 and 3 the multiplier is the product in the field (40_galois_field R106). -/
def Obligations.MultiplierIsFieldProduct : Prop :=
  ∀ a, gmul a .one = gfull a 1 ∧ gmul a .two = gfull a 2 ∧ gmul a .three = gfull a 3

/-- `SUBB a` completes with `RES = sbox(a)` and changes nothing else but `STATUS` (41_substitution_box
R114). -/
def Obligations.SubbCompletes : Prop :=
  ∀ (a : Byte) (s : State), s.busy = true →
    exec (.subb a) s =
      .next { s with res := BitVec.ofNat 32 (sbox a).toNat, status := 0x00000002 }

/-- The S-box is a permutation of the Bytes (41_substitution_box R113). -/
def Obligations.SboxIsPermutation : Prop := Function.Bijective sbox

/-- Every S-box entry is the affine image of the input's inverse in the field, 0 for 0: the second,
independent definition of 41_substitution_box R111. -/
def Obligations.SboxMatchesFieldConstruction : Prop :=
  ∀ x : Byte, ∃ y : Byte, (gfull x y = 1 ∨ (x = 0 ∧ y = 0)) ∧
    sbox x = y ^^^ y.rotateLeft 1 ^^^ y.rotateLeft 2 ^^^ y.rotateLeft 3 ^^^ y.rotateLeft 4 ^^^ 0x63

/-- `expand`: 44, 52 or 60 Words; the first `Nk` are the key in 4-byte groups; every later one is the Word
`Nk` back XORed with the previous one, which is rotated, substituted and XORed with the round constant
where `i mod Nk = 0`, substituted where `Nk > 6` and `i mod Nk = 4`, else unchanged (42_key_schedule
R126, byte by byte with R112, R121 to R124). -/
def Obligations.ExpandFollowsTheRecurrence : Prop :=
  ∀ (n : KeySize) (key : List Byte), key.length = 4 * n.nk →
    let w (i : Nat) : Word := (expand n key).getD i Word.zero
    (expand n key).length = n.len ∧
    (∀ k < n.nk, w k = ⟨key.getD (4 * k) 0, key.getD (4 * k + 1) 0, key.getD (4 * k + 2) 0,
      key.getD (4 * k + 3) 0⟩) ∧
    (∀ i, n.nk ≤ i → i < n.len → i % n.nk = 0 →
      w i = ⟨(w (i - n.nk)).b0 ^^^ (sbox (w (i - 1)).b1 ^^^ xtime^[i / n.nk - 1] 0x01),
        (w (i - n.nk)).b1 ^^^ sbox (w (i - 1)).b2, (w (i - n.nk)).b2 ^^^ sbox (w (i - 1)).b3,
        (w (i - n.nk)).b3 ^^^ sbox (w (i - 1)).b0⟩) ∧
    (∀ i, n.nk ≤ i → i < n.len → i % n.nk ≠ 0 → n.nk > 6 → i % n.nk = 4 →
      w i = ⟨(w (i - n.nk)).b0 ^^^ sbox (w (i - 1)).b0, (w (i - n.nk)).b1 ^^^ sbox (w (i - 1)).b1,
        (w (i - n.nk)).b2 ^^^ sbox (w (i - 1)).b2, (w (i - n.nk)).b3 ^^^ sbox (w (i - 1)).b3⟩) ∧
    (∀ i, n.nk ≤ i → i < n.len → i % n.nk ≠ 0 → ¬(n.nk > 6 ∧ i % n.nk = 4) →
      w i = ⟨(w (i - n.nk)).b0 ^^^ (w (i - 1)).b0, (w (i - n.nk)).b1 ^^^ (w (i - 1)).b1,
        (w (i - n.nk)).b2 ^^^ (w (i - 1)).b2, (w (i - n.nk)).b3 ^^^ (w (i - 1)).b3⟩)

/-- `KEXP` completes: `RKS` holds the expansion of the first `KEYBITS div 8` bytes of `KEY`, then zeros;
`KSINFO` describes it; nothing else changes but `STATUS`, in memory nothing outside `RKS`
(42_key_schedule R130). -/
def Obligations.KexpCompletes : Prop :=
  ∀ (n : KeySize) (s : State), s.busy = true → s.keybits.toNat = 32 * n.nk →
    let key := (List.range (s.keybits.toNat / 8)).map (fun k => s.byteAt (0x040 + k))
    ∃ m : Memory,
      exec .kexp s = .next { s with
        mem := m
        ksinfo := ksinfoOf n
        status := 0x00000002 } ∧
      (∀ i < n.len, State.wordAt { s with mem := m } (0x100 + 4 * i) =
        (expand n key).getD i Word.zero) ∧
      (∀ i, n.len ≤ i → i < 60 → State.wordAt { s with mem := m } (0x100 + 4 * i) = Word.zero) ∧
      (∀ x, ¬(0x100 ≤ x ∧ x < 0x1F0) → State.byteAt { s with mem := m } x = s.byteAt x)

/-- After `KEXP` completes, `RKS[0 .. Nk-1]` equal `KEY[0 .. Nk-1]` (42_key_schedule R127 (b), R130). -/
def Obligations.ScheduleStartsWithTheKey : Prop :=
  ∀ (s t : State) (i : Nat), s.busy = true → exec .kexp s = .next t → 32 * i < s.keybits.toNat →
    t.wordAt (0x100 + 4 * i) = t.wordAt (0x040 + 4 * i)

/-- `mixColumn` is the product of the fixed matrix with the column over GF(2^8) (43_mix_columns R140). -/
def Obligations.MixColumnIsMatrixProduct : Prop :=
  ∀ (w : Word) (r : Nat), r < 4 →
    (mixColumn w).bytes.getD r 0 =
      gfull w.b0 (mixMatrix r 0) ^^^ gfull w.b1 (mixMatrix r 1) ^^^ gfull w.b2 (mixMatrix r 2) ^^^
        gfull w.b3 (mixMatrix r 3)

/-- `mixColumn` is linear over XOR, fixes columns of four equal bytes and is no involution
(43_mix_columns R142). -/
def Obligations.MixColumnProperties : Prop :=
  (∀ v w : Word, mixColumn (xorWord v w) = xorWord (mixColumn v) (mixColumn w)) ∧
  (∀ x : Byte, mixColumn ⟨x, x, x, x⟩ = ⟨x, x, x, x⟩) ∧
  (∃ w : Word, mixColumn (mixColumn w) ≠ w)

/-- `MIXC` completes: each `SOUT[c]` is `mixColumn` of `SIN[c]`; nothing else changes but `STATUS`, in
memory nothing outside `SOUT` (43_mix_columns R141, R144). -/
def Obligations.MixcCompletes : Prop :=
  ∀ s : State, s.busy = true →
    ∃ m : Memory,
      exec .mixc s = .next { s with mem := m, status := 0x00000002 } ∧
      (∀ c < 4, State.wordAt { s with mem := m } (0x070 + 4 * c) =
        mixColumn (s.wordAt (0x060 + 4 * c))) ∧
      (∀ x, ¬(0x070 ≤ x ∧ x < 0x080) → State.byteAt { s with mem := m } x = s.byteAt x)

/-- `blockCount` is the ceiling of the quotient (44_key_derivation R153). -/
def Obligations.BlockCountIsCeiling : Prop :=
  ∀ hLen n : Nat, 0 < hLen → 0 < n →
    1 ≤ blockCount hLen n ∧ n ≤ blockCount hLen n * hLen ∧ (blockCount hLen n - 1) * hLen < n

/-- `dec(i)` is the decimal string of `i`: ASCII digits, most significant first, no leading zero but for
0 itself (44_key_derivation R152). -/
def Obligations.DecimalStringIsDecimal : Prop :=
  ∀ i : Nat, decimalValue (dec i) = i ∧ (∀ d ∈ dec i, 0x30 ≤ d.toNat ∧ d.toNat ≤ 0x39) ∧
    dec i ≠ [] ∧ ((dec i).head? = some 0x30 → i = 0 ∧ dec i = [0x30])

/-- `derive` gives exactly `n div 8` bytes, for every PRF (44_key_derivation R155 (b)). -/
def Obligations.DeriveOutputLength : Prop :=
  ∀ (Ctx : Type) (p : Prf Ctx) (P S : List Byte) (c n : Nat), (derive p P S c n).length = n / 8

/-- A shorter derived key is a prefix of a longer one (44_key_derivation R155 (c)). -/
def Obligations.DerivePrefixProperty : Prop :=
  ∀ (Ctx : Type) (p : Prf Ctx) (P S : List Byte) (c n n' : Nat), n ≤ n' →
    derive p P S c n <+: derive p P S c n'

/-- The closed form of a block under the plain-digest instance: the XOR over the iterations j = 1..c of
`H(P ++ S ++ dec(i) ++ P ++ ... ++ P)` with j copies of `P` at the end (44_key_derivation R151, R155
(a)). -/
def Obligations.DeriveBlockClosedForm : Prop :=
  ∀ (hBPred : Nat) (H : List Byte → Nat → Byte) (P S : List Byte) (c i k : Nat), k ≤ hBPred →
    (deriveBlock (plainPrf hBPred H) P S c i)[k]? =
      some ((List.range c).foldl
        (fun acc j => acc ^^^ H (P ++ (S ++ dec i) ++ (List.replicate (j + 1) P).flatten) k) 0)

/-- `DERIVE` completes: `DK` holds the derived key of the operands, then zeros; `DKLEN` its length;
nothing else changes but `STATUS`, in memory nothing outside `DK` (44_key_derivation R157). -/
def Obligations.DeriveCompletes : Prop :=
  ∀ s : State, s.busy = true → s.iter ≠ 0 → s.outbits ≠ 0 → s.outbits % 8 = 0 →
    s.pwlen.toNat ≤ s.params.pwMax → s.saltlen.toNat ≤ s.params.saltMax →
    s.outbits.toNat / 8 ≤ s.params.dkMax →
    let P := (List.range s.pwlen.toNat).map (fun k => s.byteAt (0x400 + k))
    let S := (List.range s.saltlen.toNat).map (fun k => s.byteAt (0x800 + k))
    ∃ m : Memory,
      exec .derive s = .next { s with
        mem := m
        dklen := BitVec.ofNat 32 (s.outbits.toNat / 8)
        status := 0x00000002 } ∧
      (∀ k < s.outbits.toNat / 8, State.byteAt { s with mem := m } (0xC00 + k) =
        (derive (prfOf s.params.prf) P S s.iter.toNat s.outbits.toNat).getD k 0) ∧
      (∀ k, s.outbits.toNat / 8 ≤ k → k < s.params.dkMax →
        State.byteAt { s with mem := m } (0xC00 + k) = 0) ∧
      (∀ x, ¬(0xC00 ≤ x ∧ x < 0xC00 + s.params.dkMax) →
        State.byteAt { s with mem := m } x = s.byteAt x)

/-- Bytes of `KEY`, `PW` and `SALT` beyond the stated length do not reach a result: two runs that agree on
the operands agree on the results, whatever else differs (10_state R33, R37; 70_reset_and_hazards R194
hazard 8). -/
def Obligations.UnusedOperandBytesAreIgnored : Prop :=
  ∀ s s' t t' : State, s.busy = true → s'.busy = true →
    (exec .kexp s = .next t → exec .kexp s' = .next t' → s'.keybits = s.keybits →
      (∀ k, 8 * k < s.keybits.toNat → s'.byteAt (0x040 + k) = s.byteAt (0x040 + k)) →
      t'.ksinfo = t.ksinfo ∧ ∀ k < 240, t'.byteAt (0x100 + k) = t.byteAt (0x100 + k)) ∧
    (exec .derive s = .next t → exec .derive s' = .next t' → s'.params = s.params →
      s'.iter = s.iter → s'.outbits = s.outbits → s'.pwlen = s.pwlen → s'.saltlen = s.saltlen →
      (∀ k < s.pwlen.toNat, s'.byteAt (0x400 + k) = s.byteAt (0x400 + k)) →
      (∀ k < s.saltlen.toNat, s'.byteAt (0x800 + k) = s.byteAt (0x800 + k)) →
      t'.dklen = t.dklen ∧
        ∀ k < s.params.dkMax, t'.byteAt (0xC00 + k) = t.byteAt (0xC00 + k))

/-! ### Steps of the machine -/

/-- A step runs the decoded command: the Engine's step, scheduled or with nothing scheduled, is `exec` of
the command in `CMD`; a write of a command's word to `CMD` of an idle machine is `exec` of it, with the
port's answer recorded (10_state R45, 30_encoding R78). -/
def Obligations.StepRunsTheDecodedCommand : Prop :=
  ∀ (s : State) (rest : List Event) (i : Instr),
    (s.busy = true → decodeWord s.cmd = .ok i →
      step { s with schedule := .engine :: rest } = exec i { s with schedule := rest } ∧
      step { s with schedule := [] } = exec i { s with schedule := [] }) ∧
    (s.busy = false → ∀ v, decodeWord v = .ok i →
      step { s with schedule := .hostWrite (portAddr 0x000) v :: rest } =
        exec i { s with schedule := rest, reply := some (.write .okay) })

/-- `withFetchWord` makes the very next step issue the word's command on an idle machine (the model's own
reading of how a command comes to run, log 13). -/
def Obligations.FetchWordIsIssuedNext : Prop :=
  ∀ (s : State) (w : Nat) (i : Instr), w < 2 ^ 32 → decodeTableWord 32 w = some i →
    step (s.withFetchWord 32 w) =
      exec i { s with status := (if s.busy then 0 else s.status), reply := some (.write .okay) }

/-- With nothing scheduled and the Engine idle a step changes nothing: "No location changes by itself"
(20_memory R59). -/
def Obligations.IdleMachineStaysAsItIs : Prop :=
  ∀ s : State, s.schedule = [] → s.busy = false → step s = .next s

/-- `Reset` from any state: every register 0, no buffer byte keeps a value, `HLEN` as before (10_state R41,
70_reset_and_hazards R190). An unwritten byte then reads as the free value of a new reset (log 5). -/
def Obligations.ResetClearsTheRegisters : Prop :=
  ∀ (s : State) (rest : List Event),
    ∃ t, step { s with schedule := .reset :: rest } = .next t ∧
      t.cmd = 0 ∧ t.status = 0 ∧ t.err = 0 ∧ t.res = 0 ∧ t.ksinfo = 0 ∧ t.dklen = 0 ∧
      t.keybits = 0 ∧ t.pwlen = 0 ∧ t.saltlen = 0 ∧ t.iter = 0 ∧ t.outbits = 0 ∧
      (∀ x, t.byteAt x = Config.bufferByte (s.epoch + 1) x) ∧
      t.params = s.params ∧ t.schedule = rest

/-- Right after reset `KEXP` and `DERIVE` are rejected with `InvalidKeySize` and `InvalidIterationCount`,
while `MIXC` and `SUBB` are accepted (70_reset_and_hazards R192). -/
def Obligations.CommandsAfterReset : Prop :=
  ∀ s : State, step { s with schedule := [.reset] } = .next (resetStep { s with schedule := [] }) ∧
    let r := resetStep { s with schedule := [] }
    exec .kexp r = .next { r with cmd := 0x03000000, err := 1, status := 4 } ∧
    exec .derive r = .next { r with cmd := 0x05000000, err := 4, status := 4 } ∧
    exec .mixc r = .next { r with cmd := 0x04000000, err := 0, status := 1 } ∧
    ∀ a, exec (.subb a) r = .next { r with cmd := encode (.subb a), err := 0, status := 1 }

/-- The reset state meets the invariant (95_test_vectors V51). -/
def Obligations.ResetMeetsTheInvariant : Prop := Inv State.reset

/-- Every step keeps the invariant: legal configuration, canonical memory, one-hot `STATUS`, `ERR` and its
flag in agreement, a checked command while busy, `RES`, `KSINFO`, `DKLEN` within their values, zero tails
in `RKS` and `DK` (95_test_vectors V51; 10_state R24, R27, R28, R30, R36, R38). -/
def Obligations.StepKeepsTheInvariant : Prop :=
  ∀ s t : State, Inv s → step s = .next t → Inv t

/-- From a state that meets the invariant no run ever stops: no Engine step fails (10_state R45,
60_exceptions R172). -/
def Obligations.RunsNeverStop : Prop := ∀ s : State, Inv s → RunsSafely s

/-- The Engine's step stops exactly where no check of its command passed: with a command whose check
fails, or with no command in `CMD`; neither can be while busy (10_state R45). That the model stops there
is its own choice, log 12. -/
def Obligations.EngineStopsOnlyOnUncheckedCommands : Prop :=
  ∀ s : State, s.busy = true →
    (∀ i : Instr, (∃ f, exec i s = .fault f) ↔ issueCode (encode i) s ≠ 0) ∧
    (∀ rest, (∃ f, step { s with schedule := .engine :: rest } = .fault f) ↔ issueCode s.cmd s ≠ 0)

/-- No step of the machine is refused, in any state: every command has its meaning. -/
def Obligations.NoStepIsRefused : Prop := ∀ (s : State) (r : Refusal), step s ≠ .refused r

/-- The configuration never changes (10_state R20). -/
def Obligations.ConfigurationNeverChanges : Prop :=
  ∀ s t : State, step s = .next t → t.params = s.params

/-- `STATUS` changes only so: an issue from idle to `BUSY` or `ERROR`, a completion from `BUSY` to `DONE`,
an abort from `BUSY` to `ABORTED`, a reset to 0 (10_state R27). -/
def Obligations.StatusTransitions : Prop :=
  ∀ s t : State, Inv s → step s = .next t → t.status ≠ s.status →
    (s.status ≠ 1 ∧ (t.status = 1 ∨ t.status = 4) ∧
      ∃ v, s.schedule.head? = some (.hostWrite (portAddr 0x000) v)) ∨
    (s.status = 1 ∧ t.status = 2 ∧ (s.schedule.head? = some .engine ∨ s.schedule = [])) ∨
    (s.status = 1 ∧ t.status = 8 ∧
      ∃ v : Value32, v.getLsbD 0 = true ∧ s.schedule.head? = some (.hostWrite (portAddr 0x00C) v)) ∨
    (t.status = 0 ∧ s.schedule.head? = some .reset)

/-- While busy, a Host transaction that is no abort changes nothing but the port's answer: the command
word and the operands are fixed from acceptance to completion (20_memory R63). -/
def Obligations.OperandsAreFrozenWhileBusy : Prop :=
  ∀ (s : State) (e : Event) (rest : List Event), s.params.wellFormed = true → s.busy = true →
    isPlainTransaction e →
    ∃ r, step { s with schedule := e :: rest } = .next { s with schedule := rest, reply := some r }

/-- The result of an accepted command is a function of the state at issue: whatever transactions the Host
makes in between, but for an abort, completion leaves what it would have left at once
(70_reset_and_hazards R195). -/
def Obligations.ResultDependsOnTheIssueStateOnly : Prop :=
  ∀ (s t : State) (es rest : List Event), s.params.wellFormed = true → s.busy = true →
    (∀ e ∈ es, isPlainTransaction e) →
    step { s with schedule := .engine :: rest } = .next t →
    ∃ r, Host.Core.run Sys2Proof.core (es.length + 1) { s with schedule := es ++ .engine :: rest } =
      .next { t with reply := r }

/-- Every accepted command that is not aborted and not reset completes: within one step more than there
are steps scheduled, `STATUS` is `DONE` for the command that was in `CMD` (70_reset_and_hazards R197; the
bound is the model's, log 7). -/
def Obligations.AcceptedCommandsComplete : Prop :=
  ∀ s : State, Inv s → s.busy = true → (∀ e ∈ s.schedule, spares e) →
    ∃ k t, k ≤ s.schedule.length + 1 ∧ Host.Core.run Sys2Proof.core k s = .next t ∧
      t.status = 0x00000002 ∧ t.cmd = s.cmd

/-- Abort and completion race: with the abort first the command is discarded and no result location
changes; with the completion first its results stand and the abort does nothing (60_exceptions R179).
After the abort `EngineComplete` is not enabled; that the Engine's scheduled step is then skipped is the
model's choice, log 8. -/
def Obligations.AbortAndCompletionRace : Prop :=
  ∀ (s : State) (rest : List Event), Inv s → s.busy = true →
    let abort : Event := .hostWrite (portAddr 0x00C) 1
    (Host.Core.run Sys2Proof.core 2 { s with schedule := abort :: .engine :: rest } =
      .next { s with status := 0x00000008, schedule := rest, reply := some (.write .okay) }) ∧
    (∃ t, step { s with schedule := .engine :: rest } = .next t ∧ t.status = 0x00000002 ∧
      Host.Core.run Sys2Proof.core 2 { s with schedule := .engine :: abort :: rest } =
        .next { t with reply := some (.write .okay) })

/-- A Host transaction changes no result location: `RES`, `KSINFO`, `DKLEN`, `SOUT`, `RKS`, `DK` change
only at `EngineComplete` or reset (70_reset_and_hazards R194 hazard 1). -/
def Obligations.ResultsChangeOnlyAtCompletion : Prop :=
  ∀ (s t : State) (e : Event), s.params.wellFormed = true →
    s.schedule.head? = some e → e ≠ .engine → e ≠ .reset → step s = .next t →
    t.res = s.res ∧ t.ksinfo = s.ksinfo ∧ t.dklen = s.dklen ∧
    ∀ x, inResultBuffer s.params x → t.byteAt x = s.byteAt x

/-- The protocol of one command: issued on an idle machine whose operands pass its check and completed by
the Engine's next step, it ends `DONE` with `ERR = 0` and its word in `CMD`, the state being that of the
command's completion (70_reset_and_hazards R194, 10_state R45). -/
def Obligations.IssuedCommandIsCompleted : Prop :=
  ∀ (s : State) (i : Instr) (rest : List Event), s.busy = false → issueCode (encode i) s = 0 →
    ∃ t, Host.Core.run Sys2Proof.core 2
        { s with schedule := .hostWrite (portAddr 0x000) (encode i) :: .engine :: rest } = .next t ∧
      exec i { s with
        cmd := encode i
        err := 0
        status := 0x00000001
        schedule := rest
        reply := some (.write .okay) } = .next t ∧
      t.status = 0x00000002 ∧ t.err = 0 ∧ t.cmd = encode i ∧ t.schedule = rest
end

