-- ==== Sys2Proof/Laws/State.lean ====
section
/-! SUPPORT. What each named update leaves in each field of State: one lemma per field per update. -/

namespace Sys2Proof.Machine

variable (s : State)

@[simp] theorem State.storeBytes_cmd (off : Nat) (bs : List Byte) : (s.storeBytes off bs).cmd = s.cmd := rfl
@[simp] theorem State.storeBytes_status (off : Nat) (bs : List Byte) : (s.storeBytes off bs).status = s.status := rfl
@[simp] theorem State.storeBytes_err (off : Nat) (bs : List Byte) : (s.storeBytes off bs).err = s.err := rfl
@[simp] theorem State.storeBytes_res (off : Nat) (bs : List Byte) : (s.storeBytes off bs).res = s.res := rfl
@[simp] theorem State.storeBytes_ksinfo (off : Nat) (bs : List Byte) : (s.storeBytes off bs).ksinfo = s.ksinfo := rfl
@[simp] theorem State.storeBytes_dklen (off : Nat) (bs : List Byte) : (s.storeBytes off bs).dklen = s.dklen := rfl
@[simp] theorem State.storeBytes_keybits (off : Nat) (bs : List Byte) : (s.storeBytes off bs).keybits = s.keybits := rfl
@[simp] theorem State.storeBytes_pwlen (off : Nat) (bs : List Byte) : (s.storeBytes off bs).pwlen = s.pwlen := rfl
@[simp] theorem State.storeBytes_saltlen (off : Nat) (bs : List Byte) : (s.storeBytes off bs).saltlen = s.saltlen := rfl
@[simp] theorem State.storeBytes_iter (off : Nat) (bs : List Byte) : (s.storeBytes off bs).iter = s.iter := rfl
@[simp] theorem State.storeBytes_outbits (off : Nat) (bs : List Byte) : (s.storeBytes off bs).outbits = s.outbits := rfl
@[simp] theorem State.storeBytes_mem (off : Nat) (bs : List Byte) : (s.storeBytes off bs).mem = s.mem.store off bs := rfl
@[simp] theorem State.storeBytes_params (off : Nat) (bs : List Byte) : (s.storeBytes off bs).params = s.params := rfl
@[simp] theorem State.storeBytes_epoch (off : Nat) (bs : List Byte) : (s.storeBytes off bs).epoch = s.epoch := rfl
@[simp] theorem State.storeBytes_schedule (off : Nat) (bs : List Byte) : (s.storeBytes off bs).schedule = s.schedule := rfl
@[simp] theorem State.storeBytes_reply (off : Nat) (bs : List Byte) : (s.storeBytes off bs).reply = s.reply := rfl
@[simp] theorem State.storeBytes_busy (off : Nat) (bs : List Byte) : (s.storeBytes off bs).busy = s.busy := rfl
@[simp] theorem State.storeBytes_error (off : Nat) (bs : List Byte) : (s.storeBytes off bs).error = s.error := rfl
@[simp] theorem State.storeBytes_ksValid (off : Nat) (bs : List Byte) : (s.storeBytes off bs).ksValid = s.ksValid := rfl
@[simp] theorem State.storeBytes_ksLen (off : Nat) (bs : List Byte) : (s.storeBytes off bs).ksLen = s.ksLen := rfl

@[simp] theorem State.storeValue_cmd (off : Nat) (v : Value32) : (s.storeValue off v).cmd = s.cmd := rfl
@[simp] theorem State.storeValue_status (off : Nat) (v : Value32) : (s.storeValue off v).status = s.status := rfl
@[simp] theorem State.storeValue_err (off : Nat) (v : Value32) : (s.storeValue off v).err = s.err := rfl
@[simp] theorem State.storeValue_res (off : Nat) (v : Value32) : (s.storeValue off v).res = s.res := rfl
@[simp] theorem State.storeValue_ksinfo (off : Nat) (v : Value32) : (s.storeValue off v).ksinfo = s.ksinfo := rfl
@[simp] theorem State.storeValue_dklen (off : Nat) (v : Value32) : (s.storeValue off v).dklen = s.dklen := rfl
@[simp] theorem State.storeValue_keybits (off : Nat) (v : Value32) : (s.storeValue off v).keybits = s.keybits := rfl
@[simp] theorem State.storeValue_pwlen (off : Nat) (v : Value32) : (s.storeValue off v).pwlen = s.pwlen := rfl
@[simp] theorem State.storeValue_saltlen (off : Nat) (v : Value32) : (s.storeValue off v).saltlen = s.saltlen := rfl
@[simp] theorem State.storeValue_iter (off : Nat) (v : Value32) : (s.storeValue off v).iter = s.iter := rfl
@[simp] theorem State.storeValue_outbits (off : Nat) (v : Value32) : (s.storeValue off v).outbits = s.outbits := rfl
@[simp] theorem State.storeValue_mem (off : Nat) (v : Value32) : (s.storeValue off v).mem = s.mem.store off (wordOf v).bytes := rfl
@[simp] theorem State.storeValue_params (off : Nat) (v : Value32) : (s.storeValue off v).params = s.params := rfl
@[simp] theorem State.storeValue_epoch (off : Nat) (v : Value32) : (s.storeValue off v).epoch = s.epoch := rfl
@[simp] theorem State.storeValue_schedule (off : Nat) (v : Value32) : (s.storeValue off v).schedule = s.schedule := rfl
@[simp] theorem State.storeValue_reply (off : Nat) (v : Value32) : (s.storeValue off v).reply = s.reply := rfl
@[simp] theorem State.storeValue_busy (off : Nat) (v : Value32) : (s.storeValue off v).busy = s.busy := rfl
@[simp] theorem State.storeValue_error (off : Nat) (v : Value32) : (s.storeValue off v).error = s.error := rfl
@[simp] theorem State.storeValue_ksValid (off : Nat) (v : Value32) : (s.storeValue off v).ksValid = s.ksValid := rfl
@[simp] theorem State.storeValue_ksLen (off : Nat) (v : Value32) : (s.storeValue off v).ksLen = s.ksLen := rfl

@[simp] theorem State.putRes_cmd (v : Value32) : (s.putRes v).cmd = s.cmd := rfl
@[simp] theorem State.putRes_status (v : Value32) : (s.putRes v).status = s.status := rfl
@[simp] theorem State.putRes_err (v : Value32) : (s.putRes v).err = s.err := rfl
@[simp] theorem State.putRes_res (v : Value32) : (s.putRes v).res = v := rfl
@[simp] theorem State.putRes_ksinfo (v : Value32) : (s.putRes v).ksinfo = s.ksinfo := rfl
@[simp] theorem State.putRes_dklen (v : Value32) : (s.putRes v).dklen = s.dklen := rfl
@[simp] theorem State.putRes_keybits (v : Value32) : (s.putRes v).keybits = s.keybits := rfl
@[simp] theorem State.putRes_pwlen (v : Value32) : (s.putRes v).pwlen = s.pwlen := rfl
@[simp] theorem State.putRes_saltlen (v : Value32) : (s.putRes v).saltlen = s.saltlen := rfl
@[simp] theorem State.putRes_iter (v : Value32) : (s.putRes v).iter = s.iter := rfl
@[simp] theorem State.putRes_outbits (v : Value32) : (s.putRes v).outbits = s.outbits := rfl
@[simp] theorem State.putRes_mem (v : Value32) : (s.putRes v).mem = s.mem := rfl
@[simp] theorem State.putRes_params (v : Value32) : (s.putRes v).params = s.params := rfl
@[simp] theorem State.putRes_epoch (v : Value32) : (s.putRes v).epoch = s.epoch := rfl
@[simp] theorem State.putRes_schedule (v : Value32) : (s.putRes v).schedule = s.schedule := rfl
@[simp] theorem State.putRes_reply (v : Value32) : (s.putRes v).reply = s.reply := rfl
@[simp] theorem State.putRes_byteAt (v : Value32) (x : Nat) : (s.putRes v).byteAt x = s.byteAt x := rfl
@[simp] theorem State.putRes_wordAt (v : Value32) (x : Nat) : (s.putRes v).wordAt x = s.wordAt x := rfl
@[simp] theorem State.putRes_busy (v : Value32) : (s.putRes v).busy = s.busy := rfl
@[simp] theorem State.putRes_error (v : Value32) : (s.putRes v).error = s.error := rfl
@[simp] theorem State.putRes_ksValid (v : Value32) : (s.putRes v).ksValid = s.ksValid := rfl
@[simp] theorem State.putRes_ksLen (v : Value32) : (s.putRes v).ksLen = s.ksLen := rfl

@[simp] theorem State.putKsinfo_cmd (v : Value32) : (s.putKsinfo v).cmd = s.cmd := rfl
@[simp] theorem State.putKsinfo_status (v : Value32) : (s.putKsinfo v).status = s.status := rfl
@[simp] theorem State.putKsinfo_err (v : Value32) : (s.putKsinfo v).err = s.err := rfl
@[simp] theorem State.putKsinfo_res (v : Value32) : (s.putKsinfo v).res = s.res := rfl
@[simp] theorem State.putKsinfo_ksinfo (v : Value32) : (s.putKsinfo v).ksinfo = v := rfl
@[simp] theorem State.putKsinfo_dklen (v : Value32) : (s.putKsinfo v).dklen = s.dklen := rfl
@[simp] theorem State.putKsinfo_keybits (v : Value32) : (s.putKsinfo v).keybits = s.keybits := rfl
@[simp] theorem State.putKsinfo_pwlen (v : Value32) : (s.putKsinfo v).pwlen = s.pwlen := rfl
@[simp] theorem State.putKsinfo_saltlen (v : Value32) : (s.putKsinfo v).saltlen = s.saltlen := rfl
@[simp] theorem State.putKsinfo_iter (v : Value32) : (s.putKsinfo v).iter = s.iter := rfl
@[simp] theorem State.putKsinfo_outbits (v : Value32) : (s.putKsinfo v).outbits = s.outbits := rfl
@[simp] theorem State.putKsinfo_mem (v : Value32) : (s.putKsinfo v).mem = s.mem := rfl
@[simp] theorem State.putKsinfo_params (v : Value32) : (s.putKsinfo v).params = s.params := rfl
@[simp] theorem State.putKsinfo_epoch (v : Value32) : (s.putKsinfo v).epoch = s.epoch := rfl
@[simp] theorem State.putKsinfo_schedule (v : Value32) : (s.putKsinfo v).schedule = s.schedule := rfl
@[simp] theorem State.putKsinfo_reply (v : Value32) : (s.putKsinfo v).reply = s.reply := rfl
@[simp] theorem State.putKsinfo_byteAt (v : Value32) (x : Nat) : (s.putKsinfo v).byteAt x = s.byteAt x := rfl
@[simp] theorem State.putKsinfo_wordAt (v : Value32) (x : Nat) : (s.putKsinfo v).wordAt x = s.wordAt x := rfl
@[simp] theorem State.putKsinfo_busy (v : Value32) : (s.putKsinfo v).busy = s.busy := rfl
@[simp] theorem State.putKsinfo_error (v : Value32) : (s.putKsinfo v).error = s.error := rfl

@[simp] theorem State.putDklen_cmd (v : Value32) : (s.putDklen v).cmd = s.cmd := rfl
@[simp] theorem State.putDklen_status (v : Value32) : (s.putDklen v).status = s.status := rfl
@[simp] theorem State.putDklen_err (v : Value32) : (s.putDklen v).err = s.err := rfl
@[simp] theorem State.putDklen_res (v : Value32) : (s.putDklen v).res = s.res := rfl
@[simp] theorem State.putDklen_ksinfo (v : Value32) : (s.putDklen v).ksinfo = s.ksinfo := rfl
@[simp] theorem State.putDklen_dklen (v : Value32) : (s.putDklen v).dklen = v := rfl
@[simp] theorem State.putDklen_keybits (v : Value32) : (s.putDklen v).keybits = s.keybits := rfl
@[simp] theorem State.putDklen_pwlen (v : Value32) : (s.putDklen v).pwlen = s.pwlen := rfl
@[simp] theorem State.putDklen_saltlen (v : Value32) : (s.putDklen v).saltlen = s.saltlen := rfl
@[simp] theorem State.putDklen_iter (v : Value32) : (s.putDklen v).iter = s.iter := rfl
@[simp] theorem State.putDklen_outbits (v : Value32) : (s.putDklen v).outbits = s.outbits := rfl
@[simp] theorem State.putDklen_mem (v : Value32) : (s.putDklen v).mem = s.mem := rfl
@[simp] theorem State.putDklen_params (v : Value32) : (s.putDklen v).params = s.params := rfl
@[simp] theorem State.putDklen_epoch (v : Value32) : (s.putDklen v).epoch = s.epoch := rfl
@[simp] theorem State.putDklen_schedule (v : Value32) : (s.putDklen v).schedule = s.schedule := rfl
@[simp] theorem State.putDklen_reply (v : Value32) : (s.putDklen v).reply = s.reply := rfl
@[simp] theorem State.putDklen_byteAt (v : Value32) (x : Nat) : (s.putDklen v).byteAt x = s.byteAt x := rfl
@[simp] theorem State.putDklen_wordAt (v : Value32) (x : Nat) : (s.putDklen v).wordAt x = s.wordAt x := rfl
@[simp] theorem State.putDklen_busy (v : Value32) : (s.putDklen v).busy = s.busy := rfl
@[simp] theorem State.putDklen_error (v : Value32) : (s.putDklen v).error = s.error := rfl
@[simp] theorem State.putDklen_ksValid (v : Value32) : (s.putDklen v).ksValid = s.ksValid := rfl
@[simp] theorem State.putDklen_ksLen (v : Value32) : (s.putDklen v).ksLen = s.ksLen := rfl

@[simp] theorem State.answer_cmd (r : Reply) : (s.answer r).cmd = s.cmd := rfl
@[simp] theorem State.answer_status (r : Reply) : (s.answer r).status = s.status := rfl
@[simp] theorem State.answer_err (r : Reply) : (s.answer r).err = s.err := rfl
@[simp] theorem State.answer_res (r : Reply) : (s.answer r).res = s.res := rfl
@[simp] theorem State.answer_ksinfo (r : Reply) : (s.answer r).ksinfo = s.ksinfo := rfl
@[simp] theorem State.answer_dklen (r : Reply) : (s.answer r).dklen = s.dklen := rfl
@[simp] theorem State.answer_keybits (r : Reply) : (s.answer r).keybits = s.keybits := rfl
@[simp] theorem State.answer_pwlen (r : Reply) : (s.answer r).pwlen = s.pwlen := rfl
@[simp] theorem State.answer_saltlen (r : Reply) : (s.answer r).saltlen = s.saltlen := rfl
@[simp] theorem State.answer_iter (r : Reply) : (s.answer r).iter = s.iter := rfl
@[simp] theorem State.answer_outbits (r : Reply) : (s.answer r).outbits = s.outbits := rfl
@[simp] theorem State.answer_mem (r : Reply) : (s.answer r).mem = s.mem := rfl
@[simp] theorem State.answer_params (r : Reply) : (s.answer r).params = s.params := rfl
@[simp] theorem State.answer_epoch (r : Reply) : (s.answer r).epoch = s.epoch := rfl
@[simp] theorem State.answer_schedule (r : Reply) : (s.answer r).schedule = s.schedule := rfl
@[simp] theorem State.answer_reply (r : Reply) : (s.answer r).reply = some r := rfl
@[simp] theorem State.answer_byteAt (r : Reply) (x : Nat) : (s.answer r).byteAt x = s.byteAt x := rfl
@[simp] theorem State.answer_wordAt (r : Reply) (x : Nat) : (s.answer r).wordAt x = s.wordAt x := rfl
@[simp] theorem State.answer_busy (r : Reply) : (s.answer r).busy = s.busy := rfl
@[simp] theorem State.answer_error (r : Reply) : (s.answer r).error = s.error := rfl
@[simp] theorem State.answer_ksValid (r : Reply) : (s.answer r).ksValid = s.ksValid := rfl
@[simp] theorem State.answer_ksLen (r : Reply) : (s.answer r).ksLen = s.ksLen := rfl

@[simp] theorem State.withSchedule_cmd (es : List Event) : (s.withSchedule es).cmd = s.cmd := rfl
@[simp] theorem State.withSchedule_status (es : List Event) : (s.withSchedule es).status = s.status := rfl
@[simp] theorem State.withSchedule_err (es : List Event) : (s.withSchedule es).err = s.err := rfl
@[simp] theorem State.withSchedule_res (es : List Event) : (s.withSchedule es).res = s.res := rfl
@[simp] theorem State.withSchedule_ksinfo (es : List Event) : (s.withSchedule es).ksinfo = s.ksinfo := rfl
@[simp] theorem State.withSchedule_dklen (es : List Event) : (s.withSchedule es).dklen = s.dklen := rfl
@[simp] theorem State.withSchedule_keybits (es : List Event) : (s.withSchedule es).keybits = s.keybits := rfl
@[simp] theorem State.withSchedule_pwlen (es : List Event) : (s.withSchedule es).pwlen = s.pwlen := rfl
@[simp] theorem State.withSchedule_saltlen (es : List Event) : (s.withSchedule es).saltlen = s.saltlen := rfl
@[simp] theorem State.withSchedule_iter (es : List Event) : (s.withSchedule es).iter = s.iter := rfl
@[simp] theorem State.withSchedule_outbits (es : List Event) : (s.withSchedule es).outbits = s.outbits := rfl
@[simp] theorem State.withSchedule_mem (es : List Event) : (s.withSchedule es).mem = s.mem := rfl
@[simp] theorem State.withSchedule_params (es : List Event) : (s.withSchedule es).params = s.params := rfl
@[simp] theorem State.withSchedule_epoch (es : List Event) : (s.withSchedule es).epoch = s.epoch := rfl
@[simp] theorem State.withSchedule_schedule (es : List Event) : (s.withSchedule es).schedule = es := rfl
@[simp] theorem State.withSchedule_reply (es : List Event) : (s.withSchedule es).reply = s.reply := rfl
@[simp] theorem State.withSchedule_byteAt (es : List Event) (x : Nat) : (s.withSchedule es).byteAt x = s.byteAt x := rfl
@[simp] theorem State.withSchedule_wordAt (es : List Event) (x : Nat) : (s.withSchedule es).wordAt x = s.wordAt x := rfl
@[simp] theorem State.withSchedule_busy (es : List Event) : (s.withSchedule es).busy = s.busy := rfl
@[simp] theorem State.withSchedule_error (es : List Event) : (s.withSchedule es).error = s.error := rfl
@[simp] theorem State.withSchedule_ksValid (es : List Event) : (s.withSchedule es).ksValid = s.ksValid := rfl
@[simp] theorem State.withSchedule_ksLen (es : List Event) : (s.withSchedule es).ksLen = s.ksLen := rfl

@[simp] theorem State.accept_cmd (v : Value32) : (s.accept v).cmd = v := rfl
@[simp] theorem State.accept_status (v : Value32) : (s.accept v).status = statusBusy := rfl
@[simp] theorem State.accept_err (v : Value32) : (s.accept v).err = 0 := rfl
@[simp] theorem State.accept_res (v : Value32) : (s.accept v).res = s.res := rfl
@[simp] theorem State.accept_ksinfo (v : Value32) : (s.accept v).ksinfo = s.ksinfo := rfl
@[simp] theorem State.accept_dklen (v : Value32) : (s.accept v).dklen = s.dklen := rfl
@[simp] theorem State.accept_keybits (v : Value32) : (s.accept v).keybits = s.keybits := rfl
@[simp] theorem State.accept_pwlen (v : Value32) : (s.accept v).pwlen = s.pwlen := rfl
@[simp] theorem State.accept_saltlen (v : Value32) : (s.accept v).saltlen = s.saltlen := rfl
@[simp] theorem State.accept_iter (v : Value32) : (s.accept v).iter = s.iter := rfl
@[simp] theorem State.accept_outbits (v : Value32) : (s.accept v).outbits = s.outbits := rfl
@[simp] theorem State.accept_mem (v : Value32) : (s.accept v).mem = s.mem := rfl
@[simp] theorem State.accept_params (v : Value32) : (s.accept v).params = s.params := rfl
@[simp] theorem State.accept_epoch (v : Value32) : (s.accept v).epoch = s.epoch := rfl
@[simp] theorem State.accept_schedule (v : Value32) : (s.accept v).schedule = s.schedule := rfl
@[simp] theorem State.accept_reply (v : Value32) : (s.accept v).reply = s.reply := rfl
@[simp] theorem State.accept_byteAt (v : Value32) (x : Nat) : (s.accept v).byteAt x = s.byteAt x := rfl
@[simp] theorem State.accept_wordAt (v : Value32) (x : Nat) : (s.accept v).wordAt x = s.wordAt x := rfl
@[simp] theorem State.accept_ksValid (v : Value32) : (s.accept v).ksValid = s.ksValid := rfl
@[simp] theorem State.accept_ksLen (v : Value32) : (s.accept v).ksLen = s.ksLen := rfl

@[simp] theorem State.reject_cmd (v : Value32) (e : ErrorCode) : (s.reject v e).cmd = v := rfl
@[simp] theorem State.reject_status (v : Value32) (e : ErrorCode) : (s.reject v e).status = statusError := rfl
@[simp] theorem State.reject_err (v : Value32) (e : ErrorCode) : (s.reject v e).err = e.code := rfl
@[simp] theorem State.reject_res (v : Value32) (e : ErrorCode) : (s.reject v e).res = s.res := rfl
@[simp] theorem State.reject_ksinfo (v : Value32) (e : ErrorCode) : (s.reject v e).ksinfo = s.ksinfo := rfl
@[simp] theorem State.reject_dklen (v : Value32) (e : ErrorCode) : (s.reject v e).dklen = s.dklen := rfl
@[simp] theorem State.reject_keybits (v : Value32) (e : ErrorCode) : (s.reject v e).keybits = s.keybits := rfl
@[simp] theorem State.reject_pwlen (v : Value32) (e : ErrorCode) : (s.reject v e).pwlen = s.pwlen := rfl
@[simp] theorem State.reject_saltlen (v : Value32) (e : ErrorCode) : (s.reject v e).saltlen = s.saltlen := rfl
@[simp] theorem State.reject_iter (v : Value32) (e : ErrorCode) : (s.reject v e).iter = s.iter := rfl
@[simp] theorem State.reject_outbits (v : Value32) (e : ErrorCode) : (s.reject v e).outbits = s.outbits := rfl
@[simp] theorem State.reject_mem (v : Value32) (e : ErrorCode) : (s.reject v e).mem = s.mem := rfl
@[simp] theorem State.reject_params (v : Value32) (e : ErrorCode) : (s.reject v e).params = s.params := rfl
@[simp] theorem State.reject_epoch (v : Value32) (e : ErrorCode) : (s.reject v e).epoch = s.epoch := rfl
@[simp] theorem State.reject_schedule (v : Value32) (e : ErrorCode) : (s.reject v e).schedule = s.schedule := rfl
@[simp] theorem State.reject_reply (v : Value32) (e : ErrorCode) : (s.reject v e).reply = s.reply := rfl
@[simp] theorem State.reject_byteAt (v : Value32) (e : ErrorCode) (x : Nat) : (s.reject v e).byteAt x = s.byteAt x := rfl
@[simp] theorem State.reject_wordAt (v : Value32) (e : ErrorCode) (x : Nat) : (s.reject v e).wordAt x = s.wordAt x := rfl
@[simp] theorem State.reject_ksValid (v : Value32) (e : ErrorCode) : (s.reject v e).ksValid = s.ksValid := rfl
@[simp] theorem State.reject_ksLen (v : Value32) (e : ErrorCode) : (s.reject v e).ksLen = s.ksLen := rfl

@[simp] theorem State.complete_cmd : (s.complete).cmd = s.cmd := rfl
@[simp] theorem State.complete_status : (s.complete).status = statusDone := rfl
@[simp] theorem State.complete_err : (s.complete).err = s.err := rfl
@[simp] theorem State.complete_res : (s.complete).res = s.res := rfl
@[simp] theorem State.complete_ksinfo : (s.complete).ksinfo = s.ksinfo := rfl
@[simp] theorem State.complete_dklen : (s.complete).dklen = s.dklen := rfl
@[simp] theorem State.complete_keybits : (s.complete).keybits = s.keybits := rfl
@[simp] theorem State.complete_pwlen : (s.complete).pwlen = s.pwlen := rfl
@[simp] theorem State.complete_saltlen : (s.complete).saltlen = s.saltlen := rfl
@[simp] theorem State.complete_iter : (s.complete).iter = s.iter := rfl
@[simp] theorem State.complete_outbits : (s.complete).outbits = s.outbits := rfl
@[simp] theorem State.complete_mem : (s.complete).mem = s.mem := rfl
@[simp] theorem State.complete_params : (s.complete).params = s.params := rfl
@[simp] theorem State.complete_epoch : (s.complete).epoch = s.epoch := rfl
@[simp] theorem State.complete_schedule : (s.complete).schedule = s.schedule := rfl
@[simp] theorem State.complete_reply : (s.complete).reply = s.reply := rfl
@[simp] theorem State.complete_byteAt (x : Nat) : (s.complete).byteAt x = s.byteAt x := rfl
@[simp] theorem State.complete_wordAt (x : Nat) : (s.complete).wordAt x = s.wordAt x := rfl
@[simp] theorem State.complete_ksValid : (s.complete).ksValid = s.ksValid := rfl
@[simp] theorem State.complete_ksLen : (s.complete).ksLen = s.ksLen := rfl

@[simp] theorem State.accept_busy (v : Value32) : (s.accept v).busy = true :=
  show statusBusy.getLsbD 0 = true by decide
@[simp] theorem State.reject_busy (v : Value32) (e : ErrorCode) : (s.reject v e).busy = false :=
  show statusError.getLsbD 0 = false by decide
@[simp] theorem State.complete_busy : s.complete.busy = false :=
  show statusDone.getLsbD 0 = false by decide
@[simp] theorem State.accept_error (v : Value32) : (s.accept v).error = false :=
  show statusBusy.getLsbD 2 = false by decide
@[simp] theorem State.reject_error (v : Value32) (e : ErrorCode) : (s.reject v e).error = true :=
  show statusError.getLsbD 2 = true by decide
@[simp] theorem State.complete_error : s.complete.error = false :=
  show statusDone.getLsbD 2 = false by decide

@[simp] theorem State.putOperand_cmd (r : Reg) (v : Value32) : (s.putOperand r v).cmd = s.cmd := by
  cases r <;> rfl
@[simp] theorem State.putOperand_status (r : Reg) (v : Value32) : (s.putOperand r v).status = s.status := by
  cases r <;> rfl
@[simp] theorem State.putOperand_err (r : Reg) (v : Value32) : (s.putOperand r v).err = s.err := by
  cases r <;> rfl
@[simp] theorem State.putOperand_res (r : Reg) (v : Value32) : (s.putOperand r v).res = s.res := by
  cases r <;> rfl
@[simp] theorem State.putOperand_ksinfo (r : Reg) (v : Value32) : (s.putOperand r v).ksinfo = s.ksinfo := by
  cases r <;> rfl
@[simp] theorem State.putOperand_dklen (r : Reg) (v : Value32) : (s.putOperand r v).dklen = s.dklen := by
  cases r <;> rfl
@[simp] theorem State.putOperand_mem (r : Reg) (v : Value32) : (s.putOperand r v).mem = s.mem := by
  cases r <;> rfl
@[simp] theorem State.putOperand_params (r : Reg) (v : Value32) : (s.putOperand r v).params = s.params := by
  cases r <;> rfl
@[simp] theorem State.putOperand_epoch (r : Reg) (v : Value32) : (s.putOperand r v).epoch = s.epoch := by
  cases r <;> rfl
@[simp] theorem State.putOperand_schedule (r : Reg) (v : Value32) : (s.putOperand r v).schedule = s.schedule := by
  cases r <;> rfl
@[simp] theorem State.putOperand_reply (r : Reg) (v : Value32) : (s.putOperand r v).reply = s.reply := by
  cases r <;> rfl
@[simp] theorem State.putOperand_busy (r : Reg) (v : Value32) : (s.putOperand r v).busy = s.busy := by
  cases r <;> rfl
@[simp] theorem State.putOperand_error (r : Reg) (v : Value32) : (s.putOperand r v).error = s.error := by
  cases r <;> rfl
@[simp] theorem State.putOperand_ksValid (r : Reg) (v : Value32) : (s.putOperand r v).ksValid = s.ksValid := by
  cases r <;> rfl
@[simp] theorem State.putOperand_ksLen (r : Reg) (v : Value32) : (s.putOperand r v).ksLen = s.ksLen := by
  cases r <;> rfl
@[simp] theorem State.putOperand_byteAt (r : Reg) (v : Value32) (x : Nat) :
    (s.putOperand r v).byteAt x = s.byteAt x := by
  cases r <;> rfl
@[simp] theorem State.putOperand_wordAt (r : Reg) (v : Value32) (x : Nat) :
    (s.putOperand r v).wordAt x = s.wordAt x := by
  cases r <;> rfl

@[simp] theorem State.abort_cmd : s.abort.cmd = s.cmd := by
  unfold State.abort; split <;> rfl
@[simp] theorem State.abort_err : s.abort.err = s.err := by
  unfold State.abort; split <;> rfl
@[simp] theorem State.abort_res : s.abort.res = s.res := by
  unfold State.abort; split <;> rfl
@[simp] theorem State.abort_ksinfo : s.abort.ksinfo = s.ksinfo := by
  unfold State.abort; split <;> rfl
@[simp] theorem State.abort_dklen : s.abort.dklen = s.dklen := by
  unfold State.abort; split <;> rfl
@[simp] theorem State.abort_keybits : s.abort.keybits = s.keybits := by
  unfold State.abort; split <;> rfl
@[simp] theorem State.abort_pwlen : s.abort.pwlen = s.pwlen := by
  unfold State.abort; split <;> rfl
@[simp] theorem State.abort_saltlen : s.abort.saltlen = s.saltlen := by
  unfold State.abort; split <;> rfl
@[simp] theorem State.abort_iter : s.abort.iter = s.iter := by
  unfold State.abort; split <;> rfl
@[simp] theorem State.abort_outbits : s.abort.outbits = s.outbits := by
  unfold State.abort; split <;> rfl
@[simp] theorem State.abort_mem : s.abort.mem = s.mem := by
  unfold State.abort; split <;> rfl
@[simp] theorem State.abort_params : s.abort.params = s.params := by
  unfold State.abort; split <;> rfl
@[simp] theorem State.abort_epoch : s.abort.epoch = s.epoch := by
  unfold State.abort; split <;> rfl
@[simp] theorem State.abort_schedule : s.abort.schedule = s.schedule := by
  unfold State.abort; split <;> rfl
@[simp] theorem State.abort_reply : s.abort.reply = s.reply := by
  unfold State.abort; split <;> rfl
theorem State.abort_status : s.abort.status = if s.busy then statusAborted else s.status := by
  unfold State.abort; split <;> rfl
@[simp] theorem State.abort_byteAt (x : Nat) : s.abort.byteAt x = s.byteAt x := by
  unfold State.abort; split <;> rfl
@[simp] theorem State.abort_wordAt (x : Nat) : s.abort.wordAt x = s.wordAt x := by
  unfold State.abort; split <;> rfl
@[simp] theorem State.abort_ksValid : s.abort.ksValid = s.ksValid := by
  unfold State.abort; split <;> rfl
@[simp] theorem State.abort_ksLen : s.abort.ksLen = s.ksLen := by
  unfold State.abort; split <;> rfl
@[simp] theorem State.abort_busy : s.abort.busy = false := by
  unfold State.abort
  split
  · exact show statusAborted.getLsbD 0 = false by decide
  · simpa using ‹¬s.busy = true›
@[simp] theorem State.abort_of_idle (h : s.busy = false) : s.abort = s := by
  simp [State.abort, h]

/-! ### Reset -/

@[simp] theorem resetStep_params : (resetStep s).params = s.params := rfl
@[simp] theorem resetStep_epoch : (resetStep s).epoch = s.epoch + 1 := rfl
@[simp] theorem resetStep_schedule : (resetStep s).schedule = s.schedule := rfl
@[simp] theorem resetStep_mem : (resetStep s).mem = [] := rfl
@[simp] theorem resetStep_byteAt (x : Nat) :
    (resetStep s).byteAt x = Config.bufferByte (s.epoch + 1) x := rfl

end Sys2Proof.Machine
end

