-- ==== Sys2Proof/Laws/Memory.lean ====
section
/-! SUPPORT. Memory: what a store leaves at every offset, and that it keeps the canonical form. -/

namespace Sys2Proof.Machine

theorem Memory.mem_cells {c : Host.Cell} : ∀ {a : Nat} {bs : List Byte},
    c ∈ Memory.cells a bs → a ≤ c.1 ∧ c.1 < a + bs.length
  | _, [], h => by simp [Memory.cells] at h
  | a, b :: bs, h => by
    rcases List.mem_cons.mp h with rfl | h
    · simp
    · have := Memory.mem_cells h
      simp only [List.length_cons]
      omega

theorem Memory.pairwise_cells : ∀ (a : Nat) (bs : List Byte),
    (Memory.cells a bs).Pairwise (fun x y => x.1 < y.1)
  | _, [] => List.Pairwise.nil
  | a, b :: bs => by
    refine List.Pairwise.cons (fun c hc => ?_) (Memory.pairwise_cells (a + 1) bs)
    have := Memory.mem_cells hc
    simp only
    omega

/-- A store keeps the canonical form. -/
theorem Memory.wf_store (m : Memory) (base : Nat) (bs : List Byte) (h : m.wf = true) :
    (m.store base bs).wf = true := by
  simp only [Memory.wf, decide_eq_true_eq] at h ⊢
  have hlow := h.filter (fun c => decide (c.1 < base))
  have hhigh := h.filter (fun c => decide (base + bs.length ≤ c.1))
  unfold Memory.store
  rw [List.append_assoc, List.pairwise_append, List.pairwise_append]
  refine ⟨hlow, ⟨Memory.pairwise_cells base bs, hhigh, ?_⟩, ?_⟩
  · intro x hx y hy
    have hx := Memory.mem_cells hx
    have hy : base + bs.length ≤ y.1 := by simpa using (List.mem_filter.mp hy).2
    omega
  · intro x hx y hy
    have hx : x.1 < base := by simpa using (List.mem_filter.mp hx).2
    rcases List.mem_append.mp hy with hy | hy
    · have := Memory.mem_cells hy
      omega
    · have hy : base + bs.length ≤ y.1 := by simpa using (List.mem_filter.mp hy).2
      omega

theorem Memory.wf_nil : Memory.wf [] = true := rfl

/-- Every cell after a store was there before or lies in the stored run. -/
theorem Memory.mem_store {m : Memory} {base : Nat} {bs : List Byte} {c : Host.Cell}
    (h : c ∈ m.store base bs) : c ∈ m ∨ (base ≤ c.1 ∧ c.1 < base + bs.length) := by
  simp only [Memory.store, List.mem_append, List.mem_filter] at h
  rcases h with (h | h) | h
  · exact .inl h.1
  · exact .inr (Memory.mem_cells h)
  · exact .inl h.1

theorem Memory.lookup_append (m n : Memory) (x : Nat) :
    Memory.lookup (m ++ n) x = (Memory.lookup m x).or (Memory.lookup n x) := by
  induction m with
  | nil => simp [Memory.lookup]
  | cons c m ih =>
    obtain ⟨a, b⟩ := c
    simp only [List.cons_append, Memory.lookup]
    split
    · simp
    · exact ih

theorem Memory.lookup_filter (m : Memory) (p : Nat → Bool) (x : Nat) :
    Memory.lookup (m.filter (fun c => p c.1)) x = if p x then Memory.lookup m x else none := by
  induction m with
  | nil => simp [Memory.lookup]
  | cons c m ih =>
    obtain ⟨a, b⟩ := c
    by_cases hx : x = a
    · subst hx
      by_cases hp : p x <;> simp_all [Memory.lookup]
    · by_cases hp : p a <;> simp_all [Memory.lookup]

theorem Memory.lookup_cells_out : ∀ (a : Nat) (bs : List Byte) (x : Nat),
    ¬(a ≤ x ∧ x < a + bs.length) → Memory.lookup (Memory.cells a bs) x = none
  | _, [], _, _ => rfl
  | a, b :: bs, x, h => by
    simp only [List.length_cons] at h
    rw [Memory.cells, Memory.lookup, if_neg (by omega)]
    exact Memory.lookup_cells_out (a + 1) bs x (by omega)

theorem Memory.lookup_cells_in : ∀ (a : Nat) (bs : List Byte) (k : Nat),
    Memory.lookup (Memory.cells a bs) (a + k) = bs[k]?
  | _, [], _ => rfl
  | a, b :: bs, 0 => by simp [Memory.cells, Memory.lookup]
  | a, b :: bs, k + 1 => by
    rw [Memory.cells, Memory.lookup, if_neg (by omega), List.getElem?_cons_succ,
      ← Memory.lookup_cells_in (a + 1) bs k]
    congr 1
    omega

/-- Inside the stored run, a store leaves the stored bytes. -/
theorem Memory.lookup_store_in (m : Memory) (base : Nat) (bs : List Byte) (k : Nat)
    (h : k < bs.length) : (m.store base bs).lookup (base + k) = bs[k]? := by
  have hlow := Memory.lookup_filter m (fun x => decide (x < base)) (base + k)
  rw [if_neg (by simp)] at hlow
  unfold Memory.store
  rw [Memory.lookup_append, Memory.lookup_append, hlow, Memory.lookup_cells_in,
    List.getElem?_eq_getElem h]
  rfl

/-- Outside the stored run, a store leaves what was there. -/
theorem Memory.lookup_store_out (m : Memory) (base : Nat) (bs : List Byte) (x : Nat)
    (h : ¬(base ≤ x ∧ x < base + bs.length)) : (m.store base bs).lookup x = m.lookup x := by
  have hlow := Memory.lookup_filter m (fun x => decide (x < base)) x
  have hhigh := Memory.lookup_filter m (fun x => decide (base + bs.length ≤ x)) x
  unfold Memory.store
  rw [Memory.lookup_append, Memory.lookup_append, hlow, Memory.lookup_cells_out _ _ _ h, hhigh]
  by_cases hx : x < base
  · rw [if_pos (by simpa using hx), if_neg (by simp; omega)]
    simp
  · rw [if_neg (by simpa using hx), if_pos (by simp; omega)]
    simp

/-! ### The buffers' bytes under a store -/

variable (s : State)

theorem State.storeBytes_byteAt_in (off : Nat) (bs : List Byte) (k : Nat) (h : k < bs.length) :
    (s.storeBytes off bs).byteAt (off + k) = bs[k] := by
  simp [State.byteAt, Memory.lookup_store_in _ _ _ _ h, h]

theorem State.storeBytes_byteAt_out (off : Nat) (bs : List Byte) (x : Nat)
    (h : ¬(off ≤ x ∧ x < off + bs.length)) : (s.storeBytes off bs).byteAt x = s.byteAt x := by
  simp [State.byteAt, Memory.lookup_store_out _ _ _ _ h]

/-- What a store leaves at every offset. -/
theorem State.storeBytes_byteAt (off : Nat) (bs : List Byte) (x : Nat) :
    (s.storeBytes off bs).byteAt x =
      if off ≤ x ∧ x < off + bs.length then bs.getD (x - off) 0 else s.byteAt x := by
  split
  · next h =>
    have := s.storeBytes_byteAt_in off bs (x - off) (by omega)
    rw [show off + (x - off) = x by omega] at this
    rw [this, List.getD_eq_getElem?_getD, List.getElem?_eq_getElem (by omega)]
    rfl
  · next h => exact s.storeBytes_byteAt_out off bs x h

theorem State.wordAt_congr {s t : State} {off : Nat}
    (h : ∀ k < 4, t.byteAt (off + k) = s.byteAt (off + k)) : t.wordAt off = s.wordAt off := by
  simp only [State.wordAt]
  rw [h 1 (by omega), h 2 (by omega), h 3 (by omega)]
  have := h 0 (by omega)
  simp only [Nat.add_zero] at this
  rw [this]

theorem State.bytesAt_congr {s t : State} {off n : Nat}
    (h : ∀ k < n, t.byteAt (off + k) = s.byteAt (off + k)) : t.bytesAt off n = s.bytesAt off n := by
  simp only [State.bytesAt]
  exact List.map_congr_left fun k hk => h k (List.mem_range.mp hk)

@[simp] theorem State.length_bytesAt (off n : Nat) : (s.bytesAt off n).length = n := by
  simp [State.bytesAt]

end Sys2Proof.Machine
end

