-- ==== Sys2Proof/Laws/Lanes.lean ====
section
/-! SUPPORT. Words, 32-bit values and buffer words. -/

namespace Sys2Proof.Machine

@[simp] theorem wordOf_lane32 (w : Word) : wordOf (lane32 w) = w := by
  obtain ⟨b0, b1, b2, b3⟩ := w
  simp only [wordOf, lane32, Word.mk.injEq]
  refine ⟨?_, ?_, ?_, ?_⟩ <;>
  · apply BitVec.eq_of_getLsbD_eq
    intro i hi
    simp only [BitVec.getLsbD_extractLsb', hi, decide_true, Bool.true_and, BitVec.getLsbD_append]
    split_ifs <;> (first | omega | (congr 1; omega))

@[simp] theorem lane32_wordOf (v : Value32) : lane32 (wordOf v) = v := by
  apply BitVec.eq_of_getLsbD_eq
  intro i hi
  simp only [wordOf, lane32, BitVec.getLsbD_extractLsb', BitVec.getLsbD_append]
  split_ifs with h0 h1 h2
  · simp [h0]
  · simp only [h1, decide_true, Bool.true_and]; congr 1; omega
  · simp only [h2, decide_true, Bool.true_and]; congr 1; omega
  · rw [decide_eq_true (by omega), Bool.true_and]; congr 1; omega

@[simp] theorem Word.length_bytes (w : Word) : w.bytes.length = 4 := rfl

/-- Byte k of the Word a value carries is its lane k. -/
theorem getD_bytes_wordOf (v : Value32) (k : Nat) (h : k < 4) :
    (wordOf v).bytes.getD k 0 = v.extractLsb' (8 * k) 8 := by
  match k, h with
  | 0, _ => rfl
  | 1, _ => rfl
  | 2, _ => rfl
  | 3, _ => rfl

/-- Word k of a run of Words laid out in bytes. -/
theorem getD_flatMap_bytes (ws : List Word) (j k : Nat) (hk : k < 4) :
    (ws.flatMap Word.bytes).getD (4 * j + k) 0 = (ws.getD j Word.zero).bytes.getD k 0 := by
  induction ws generalizing j with
  | nil => match k, hk with
    | 0, _ | 1, _ | 2, _ | 3, _ => simp [Word.zero, Word.bytes]
  | cons w ws ih =>
    cases j with
    | zero =>
      simp only [List.flatMap_cons, List.getD_eq_getElem?_getD]
      rw [List.getElem?_append_left (by simp; omega)]
      simp
    | succ j =>
      have := ih j
      simp only [List.flatMap_cons, List.getD_eq_getElem?_getD] at this ⊢
      rw [List.getElem?_append_right (by simp; omega)]
      simpa [show 4 * (j + 1) + k - 4 = 4 * j + k by omega] using this

theorem length_flatMap_bytes (ws : List Word) : (ws.flatMap Word.bytes).length = 4 * ws.length := by
  induction ws with
  | nil => rfl
  | cons w ws ih => simp only [List.flatMap_cons, List.length_append, ih, Word.length_bytes,
      List.length_cons]; omega

@[simp] theorem length_zeros (n : Nat) : (zeros n).length = n := by simp [zeros]

theorem getD_zeros (n k : Nat) : (zeros n).getD k 0 = 0 := by
  simp only [zeros, List.getD_eq_getElem?_getD, List.getElem?_replicate]
  split <;> rfl

/-- A Word is its bytes. -/
theorem Word.ext_bytes {v w : Word} (h : ∀ k < 4, v.bytes.getD k 0 = w.bytes.getD k 0) : v = w := by
  obtain ⟨a0, a1, a2, a3⟩ := v
  obtain ⟨b0, b1, b2, b3⟩ := w
  have h0 := h 0 (by omega)
  have h1 := h 1 (by omega)
  have h2 := h 2 (by omega)
  have h3 := h 3 (by omega)
  simp only [Word.bytes, List.getD_cons_zero, List.getD_cons_succ] at h0 h1 h2 h3
  rw [h0, h1, h2, h3]

/-- Byte k of a buffer word is the buffer byte at its offset plus k (20_memory R56). -/
theorem State.getD_bytes_wordAt (s : State) (off k : Nat) (h : k < 4) :
    (s.wordAt off).bytes.getD k 0 = s.byteAt (off + k) := by
  match k, h with
  | 0, _ => rfl
  | 1, _ => rfl
  | 2, _ => rfl
  | 3, _ => rfl

/-- Word j inside a stored run of Words followed by other bytes. -/
theorem State.storeBytes_wordAt (s : State) (off : Nat) (ws : List Word) (tail : List Byte) (j : Nat)
    (h : j < ws.length) :
    (s.storeBytes off (ws.flatMap Word.bytes ++ tail)).wordAt (off + 4 * j) =
      ws.getD j Word.zero := by
  apply Word.ext_bytes
  intro k hk
  have hlen := length_flatMap_bytes ws
  rw [State.getD_bytes_wordAt _ _ _ hk, State.storeBytes_byteAt, if_pos (by simp; omega),
    ← getD_flatMap_bytes ws j k hk, show off + 4 * j + k - off = 4 * j + k by omega]
  simp only [List.getD_eq_getElem?_getD]
  rw [List.getElem?_append_left (by omega)]

theorem State.storeValue_wordAt (s : State) (off : Nat) (v : Value32) :
    (s.storeValue off v).wordAt off = wordOf v := by
  have := s.storeBytes_wordAt off [wordOf v] [] 0 (by simp)
  simpa [State.storeValue] using this

/-- What a 32-bit store leaves at every offset. -/
theorem State.storeValue_byteAt_out (s : State) (off : Nat) (v : Value32) (x : Nat)
    (h : ¬(off ≤ x ∧ x < off + 4)) : (s.storeValue off v).byteAt x = s.byteAt x :=
  s.storeBytes_byteAt_out off _ x (by simpa using h)

theorem State.storeValue_byteAt_in (s : State) (off : Nat) (v : Value32) (k : Nat) (h : k < 4) :
    (s.storeValue off v).byteAt (off + k) = v.extractLsb' (8 * k) 8 := by
  rw [← getD_bytes_wordOf v k h, ← s.storeValue_wordAt off v, State.getD_bytes_wordAt _ _ _ h]

/-- The byte read back from a run of bytes is the byte at its offset. -/
theorem State.getD_bytesAt (s : State) (off n k : Nat) (h : k < n) :
    (s.bytesAt off n).getD k 0 = s.byteAt (off + k) := by
  simp [State.bytesAt, h]

end Sys2Proof.Machine
end

