-- ==== Sys2Proof/Laws/Command.lean ====
section
/-! SUPPORT. The two moments of a command, and the checks. -/

namespace Sys2Proof.Machine

variable {α : Type} {v : Value32} {checked : Except ErrorCode α} {publish : α → State} {s t : State}

/-- Everything a command's step can do. -/
theorem command_next (h : command v checked publish s = .next t) :
    (s.busy = false ∧ (∃ x, checked = .ok x) ∧ t = s.accept v) ∨
    (s.busy = false ∧ ∃ e, checked = .error e ∧ t = s.reject v e) ∨
    (s.busy = true ∧ ∃ x, checked = .ok x ∧ t = (publish x).complete) := by
  unfold command at h
  split at h
  · exact .inl ⟨‹_›, ⟨_, rfl⟩, (Host.Outcome.next.inj h).symm⟩
  · exact .inr (.inl ⟨‹_›, _, rfl, (Host.Outcome.next.inj h).symm⟩)
  · exact .inr (.inr ⟨‹_›, _, rfl, (Host.Outcome.next.inj h).symm⟩)
  · exact absurd h nofun

theorem command_idle (h : s.busy = false) : command v checked publish s =
    .next (match errorOf checked with | none => s.accept v | some e => s.reject v e) := by
  unfold command errorOf
  cases checked <;> simp [h]

theorem command_busy_ok {x : α} (h : s.busy = true) (hc : checked = .ok x) :
    command v checked publish s = .next (publish x).complete := by
  simp [command, h, hc]

theorem command_not_refused (r : Refusal) : command v checked publish s ≠ .refused r := by
  unfold command
  split <;> exact nofun

/-- `exec` of an idle machine, for every command: its check decides. -/
theorem exec_idle (i : Instr) (h : s.busy = false) : exec i s =
    .next (match check i s with
      | none => s.accept (encode i)
      | some e => s.reject (encode i) e) := by
  cases i <;> exact command_idle h

theorem exec_not_refused (i : Instr) (r : Refusal) : exec i s ≠ .refused r := by
  cases i <;> exact command_not_refused r

/-- What a command publishes, when its check passes: the state before `STATUS` becomes `DONE`. -/
def published (i : Instr) (s : State) : State :=
  match i with
  | .gfmul a b => (coeffOf b).elim s (fun c => s.putRes (zext32 (gmul a c)))
  | .subb a => s.putRes (zext32 (sbox a))
  | .kexp => (keySizeOf s.keybits).elim s (publishKexp s)
  | .mixc => publishMixc s
  | .derive => publishDerive s

/-- `exec` of a busy machine whose command's check passes. -/
theorem exec_busy (i : Instr) (h : s.busy = true) (hc : check i s = none) :
    exec i s = .next (published i s).complete := by
  cases i with
  | gfmul a b =>
    simp only [check, checkGfmul] at hc
    cases hb : coeffOf b with
    | none => simp [hb, errorOf] at hc
    | some c => simp only [published, hb, Option.elim_some]; exact command_busy_ok h (by simp [checkGfmul, hb])
  | subb a => exact command_busy_ok h rfl
  | kexp =>
    simp only [check, checkKexp] at hc
    cases hb : keySizeOf s.keybits with
    | none => simp [hb, errorOf] at hc
    | some c => simp only [published, hb, Option.elim_some]; exact command_busy_ok h (by simp [checkKexp, hb])
  | mixc => exact command_busy_ok h rfl
  | derive =>
    simp only [check] at hc
    cases hb : checkDerive s with
    | error e => simp [hb, errorOf] at hc
    | ok c => exact command_busy_ok h hb

/-- A busy machine completes a command only when its check passes. -/
theorem exec_busy_next (i : Instr) (h : s.busy = true) (he : exec i s = .next t) :
    check i s = none ∧ t = (published i s).complete := by
  have hc : check i s = none := by
    cases i <;>
    · rcases command_next he with ⟨hb, -⟩ | ⟨hb, -⟩ | ⟨-, x, hx, -⟩
      · simp [h] at hb
      · simp [h] at hb
      · simp [check, hx, errorOf]
  exact ⟨hc, by rw [exec_busy i h hc] at he; exact (Host.Outcome.next.inj he).symm⟩

/-! ### The checks -/

theorem checkGfmul_ok {b : Byte} {c : Coeff} : checkGfmul b = .ok c ↔ coeffOf b = some c := by
  unfold checkGfmul
  split <;> simp_all

theorem checkKexp_ok {n : KeySize} : checkKexp s = .ok n ↔ keySizeOf s.keybits = some n := by
  unfold checkKexp
  split <;> simp_all

theorem keySizeOf_eq_some {v : Value32} {n : KeySize} :
    keySizeOf v = some n ↔ v.toNat = 32 * n.nk := by
  have key : ∀ k : Nat, k < 2 ^ 32 → (v = BitVec.ofNat 32 k ↔ v.toNat = k) := fun k hk => by
    rw [← BitVec.toNat_inj, BitVec.toNat_ofNat, Nat.mod_eq_of_lt hk]
  have h1 := key 128 (by norm_num)
  have h2 := key 192 (by norm_num)
  have h3 := key 256 (by norm_num)
  unfold keySizeOf
  cases n <;> simp only [KeySize.nk] <;> split_ifs with g1 g2 g3 <;>
    simp_all [OfNat.ofNat]

theorem checkDerive_ok : checkDerive s = .ok () ↔
    s.iter.toNat ≠ 0 ∧ s.outbits.toNat ≠ 0 ∧ s.outbits.toNat % 8 = 0 ∧
    s.pwlen.toNat ≤ s.params.pwMax ∧ s.saltlen.toNat ≤ s.params.saltMax ∧
    s.outBytes ≤ s.params.dkMax := by
  unfold checkDerive
  split_ifs with h1 h2 h3
  · exact ⟨nofun, fun h => absurd h1 h.1⟩
  · exact ⟨nofun, fun h => by omega⟩
  · exact ⟨nofun, fun h => by omega⟩
  · exact ⟨fun _ => by omega, fun _ => rfl⟩

end Sys2Proof.Machine
end

