-- ==== Sys2Proof/Laws/Decode.lean ====
section
/-! SUPPORT. The fields of a command word and of an assembled one. -/

namespace Sys2Proof

@[simp] theorem fieldOpc_assemble (opc b a : Byte) : fieldOpc (assemble opc b a) = opc := by
  apply BitVec.eq_of_getLsbD_eq
  intro i hi
  simp only [fieldOpc, assemble, BitVec.getLsbD_extractLsb', BitVec.getLsbD_append, hi, decide_true,
    Bool.true_and]
  split_ifs <;> (first | omega | (congr 1; omega))

@[simp] theorem fieldZ_assemble (opc b a : Byte) : fieldZ (assemble opc b a) = 0 := by
  apply BitVec.eq_of_getLsbD_eq
  intro i hi
  simp only [fieldZ, assemble, BitVec.getLsbD_extractLsb', BitVec.getLsbD_append, hi, decide_true,
    Bool.true_and]
  split_ifs <;> (first | omega | simp)

@[simp] theorem fieldB_assemble (opc b a : Byte) : fieldB (assemble opc b a) = b := by
  apply BitVec.eq_of_getLsbD_eq
  intro i hi
  simp only [fieldB, assemble, BitVec.getLsbD_extractLsb', BitVec.getLsbD_append, hi, decide_true,
    Bool.true_and]
  split_ifs <;> (first | omega | (congr 1; omega))

@[simp] theorem fieldA_assemble (opc b a : Byte) : fieldA (assemble opc b a) = a := by
  apply BitVec.eq_of_getLsbD_eq
  intro i hi
  simp only [fieldA, assemble, BitVec.getLsbD_extractLsb', BitVec.getLsbD_append, hi, decide_true,
    Bool.true_and]
  split_ifs <;> (first | omega | (congr 1; omega))

/-- A word whose `z` is zero is what its fields assemble to. -/
theorem assemble_fields (v : Value32) (h : fieldZ v = 0) :
    assemble (fieldOpc v) (fieldB v) (fieldA v) = v := by
  apply BitVec.eq_of_getLsbD_eq
  intro i hi
  have hz : ∀ k < 8, v.getLsbD (16 + k) = false := fun k hk => by
    have := congrArg (fun x => x.getLsbD k) h
    simpa [fieldZ, hk] using this
  simp only [fieldOpc, fieldB, fieldA, assemble, BitVec.getLsbD_extractLsb', BitVec.getLsbD_append]
  split_ifs with h0 h1 h2
  · simp [h0]
  · simp only [h1, decide_true, Bool.true_and]; congr 1; omega
  · have := hz (i - 16) (by omega)
    rw [show 16 + (i - 16) = i by omega] at this
    simp [this]
  · rw [decide_eq_true (by omega), Bool.true_and]; congr 1; omega

/-- What format `AB` accepts (30_encoding R71). -/
theorem decodeAB_ok {mk : Byte → Byte → Instr} {v : Value32} {i : Instr} :
    decodeAB mk v = .ok i ↔ fieldZ v = 0 ∧ i = mk (fieldA v) (fieldB v) := by
  unfold decodeAB
  split_ifs with h
  · exact ⟨nofun, fun k => absurd k.1 h⟩
  · have h := not_not.mp h
    exact ⟨fun k => ⟨h, (Except.ok.inj k).symm⟩, fun k => by rw [k.2]⟩

/-- What format `A` accepts (30_encoding R71). -/
theorem decodeA_ok {mk : Byte → Instr} {v : Value32} {i : Instr} :
    decodeA mk v = .ok i ↔ fieldZ v = 0 ∧ fieldB v = 0 ∧ i = mk (fieldA v) := by
  unfold decodeA
  split_ifs with h h'
  · exact ⟨nofun, fun k => absurd k.1 h⟩
  · exact ⟨nofun, fun k => absurd k.2.1 h'⟩
  · exact ⟨fun k => ⟨not_not.mp h, not_not.mp h', (Except.ok.inj k).symm⟩, fun k => by rw [k.2.2]⟩

/-- What format `N` accepts (30_encoding R71). -/
theorem decodeN_ok {c : Instr} {v : Value32} {i : Instr} :
    decodeN c v = .ok i ↔ fieldZ v = 0 ∧ fieldB v = 0 ∧ fieldA v = 0 ∧ i = c := by
  unfold decodeN
  split_ifs with h h' h''
  · exact ⟨nofun, fun k => absurd k.1 h⟩
  · exact ⟨nofun, fun k => absurd k.2.1 h'⟩
  · exact ⟨nofun, fun k => absurd k.2.2.1 h''⟩
  · exact ⟨fun k => ⟨not_not.mp h, not_not.mp h', not_not.mp h'', (Except.ok.inj k).symm⟩,
      fun k => by rw [k.2.2.2]⟩

/-- Everything the decoder can accept: the opcode of one of the five rows, and its format's fields. -/
theorem decodeWord_ok {v : Value32} {i : Instr} : decodeWord v = .ok i ↔
    (fieldOpc v = opcGfmul ∧ fieldZ v = 0 ∧ i = .gfmul (fieldA v) (fieldB v)) ∨
    (fieldOpc v = opcSubb ∧ fieldZ v = 0 ∧ fieldB v = 0 ∧ i = .subb (fieldA v)) ∨
    (fieldOpc v = opcKexp ∧ fieldZ v = 0 ∧ fieldB v = 0 ∧ fieldA v = 0 ∧ i = .kexp) ∨
    (fieldOpc v = opcMixc ∧ fieldZ v = 0 ∧ fieldB v = 0 ∧ fieldA v = 0 ∧ i = .mixc) ∨
    (fieldOpc v = opcDerive ∧ fieldZ v = 0 ∧ fieldB v = 0 ∧ fieldA v = 0 ∧ i = .derive) := by
  unfold decodeWord
  split_ifs with h1 h2 h3 h4 h5
  · simp [decodeAB_ok, h1, opcGfmul, opcSubb, opcKexp, opcMixc, opcDerive]
  · simp [decodeA_ok, h2, opcGfmul, opcSubb, opcKexp, opcMixc, opcDerive]
  · simp [decodeN_ok, h3, opcGfmul, opcSubb, opcKexp, opcMixc, opcDerive]
  · simp [decodeN_ok, h4, opcGfmul, opcSubb, opcKexp, opcMixc, opcDerive]
  · simp [decodeN_ok, h5, opcGfmul, opcSubb, opcKexp, opcMixc, opcDerive]
  · simp [h1, h2, h3, h4, h5]

end Sys2Proof
end

