-- ==== Sys2Proof/Laws/KeyDerivation.lean ====
section
/-! SUPPORT. The blocks of the derivation. -/

namespace Sys2Proof.Machine

variable {Ctx : Type} (p : Prf Ctx)

@[simp] theorem length_digest (ctx : Ctx) : (digest p ctx).length = p.hB := by simp [digest]

theorem length_xorBytes {x y : List Byte} (h : x.length = y.length) :
    (xorBytes x y).length = x.length := by
  simp [xorBytes, h]

/-- The accumulator keeps its length (44_key_derivation R154). -/
theorem length_stretch (P : List Byte) : ∀ (c : Nat) (ctx : Ctx) (T : List Byte),
    T.length = p.hB → (stretch p P c ctx T).length = p.hB
  | 0, _, _, h => h
  | c + 1, ctx, T, h => by
    rw [stretch]
    exact length_stretch P c _ _ (by rw [length_xorBytes (by simpa using h)]; exact h)

@[simp] theorem length_deriveBlock (P S : List Byte) (c i : Nat) :
    (deriveBlock p P S c i).length = p.hB :=
  length_stretch p P c _ _ (by simp)

/-- The blocks of a derivation, one after the other, are `hB` bytes each. -/
theorem length_blocks (P S : List Byte) (c b : Nat) :
    ((List.range b).flatMap (deriveBlock p P S c)).length = b * p.hB := by
  induction b with
  | zero => simp
  | succ b ih =>
    rw [List.range_succ, List.flatMap_append, List.length_append, ih]
    simp [Nat.succ_mul]

/-- More blocks only append (44_key_derivation R155 (c), (d)). -/
theorem blocks_prefix (P S : List Byte) (c : Nat) {b b' : Nat} (h : b ≤ b') :
    (List.range b).flatMap (deriveBlock p P S c) <+: (List.range b').flatMap (deriveBlock p P S c) := by
  obtain ⟨d, rfl⟩ := Nat.exists_eq_add_of_le h
  rw [List.range_add, List.flatMap_append]
  exact List.prefix_append _ _

end Sys2Proof.Machine
end

