-- ==== Sys2Proof/Laws/KeySchedule.lean ====
section
/-! SUPPORT. The loop of the key expansion. -/

namespace Sys2Proof.Machine

theorem length_extendSchedule (nk : Nat) : ∀ (k : Nat) (w : List Word),
    (extendSchedule nk k w).length = w.length + k
  | 0, _ => rfl
  | k + 1, w => by
    rw [extendSchedule, length_extendSchedule nk k]
    simp
    omega

/-- The loop only appends: what stands in the schedule stays. -/
theorem extendSchedule_prefix (nk : Nat) : ∀ (k : Nat) (w : List Word) (i : Nat), i < w.length →
    (extendSchedule nk k w).getD i Word.zero = w.getD i Word.zero
  | 0, _, _, _ => rfl
  | k + 1, w, i, h => by
    rw [extendSchedule, extendSchedule_prefix nk k _ i (by simp; omega)]
    simp only [List.getD_eq_getElem?_getD]
    rw [List.getElem?_append_left h]

/-- The loop body, read off the finished schedule: Word `i` is the Word `nk` back XORed with `temp` of
the previous Word. -/
theorem extendSchedule_next {nk : Nat} (hnk : 0 < nk) : ∀ (k : Nat) (w : List Word) (i : Nat),
    nk ≤ w.length → w.length ≤ i → i < w.length + k →
    (extendSchedule nk k w).getD i Word.zero =
      xorWord ((extendSchedule nk k w).getD (i - nk) Word.zero)
        (scheduleTemp nk i ((extendSchedule nk k w).getD (i - 1) Word.zero))
  | 0, _, _, _, h1, h2 => by omega
  | k + 1, w, i, hw, h1, h2 => by
    simp only [extendSchedule]
    by_cases hi : i = w.length
    · subst hi
      have keep : ∀ j, j < w.length → (extendSchedule nk k (w ++ [nextWord nk w])).getD j Word.zero =
          w.getD j Word.zero := fun j hj => by
        rw [extendSchedule_prefix nk k _ j (by simp; omega)]
        simp only [List.getD_eq_getElem?_getD]
        rw [List.getElem?_append_left hj]
      rw [keep (w.length - nk) (by omega), keep (w.length - 1) (by omega), extendSchedule_prefix nk k _ _ (by simp)]
      simp [nextWord]
    · exact extendSchedule_next hnk k _ i (by simp; omega) (by simp; omega) (by simp; omega)

@[simp] theorem length_keyBlock (nk : Nat) (key : List Byte) : (keyBlock nk key).length = nk := by
  simp [keyBlock]

theorem KeySize.nk_pos (n : KeySize) : 0 < n.nk := by cases n <;> decide

theorem KeySize.nk_le_len (n : KeySize) : n.nk ≤ n.len := by cases n <;> decide

theorem KeySize.len_le (n : KeySize) : n.len ≤ 60 := by cases n <;> decide

end Sys2Proof.Machine
end

