-- ==== Sys2Proof/Laws/PerInstr.lean ====
section
/-! SUPPORT. Statements made once per command. -/

namespace Sys2Proof.Laws.EncodeLegal

/-- The encoder's word of a command carries the opcode of the command's row, and its reserved field `z`
is zero (30_encoding R70, R75, R79). -/
def Statement (i : Instr) : Prop :=
  fieldOpc (encode i) = i.row.pattern.extractLsb' 24 8 ∧ fieldZ (encode i) = 0

theorem gfmul (a b : Byte) : Statement (.gfmul a b) :=
  ⟨(fieldOpc_assemble _ _ _).trans (show opcGfmul = (0x01000000 : Value32).extractLsb' 24 8 by decide),
    fieldZ_assemble _ _ _⟩

theorem subb (a : Byte) : Statement (.subb a) :=
  ⟨(fieldOpc_assemble _ _ _).trans (show opcSubb = (0x02000000 : Value32).extractLsb' 24 8 by decide),
    fieldZ_assemble _ _ _⟩

theorem kexp : Statement .kexp := ⟨fieldOpc_assemble _ _ _, fieldZ_assemble _ _ _⟩

theorem mixc : Statement .mixc := ⟨fieldOpc_assemble _ _ _, fieldZ_assemble _ _ _⟩

theorem derive : Statement .derive := ⟨fieldOpc_assemble _ _ _, fieldZ_assemble _ _ _⟩

end Sys2Proof.Laws.EncodeLegal
end

