-- ==== Sys2Proof/Laws/Port.lean ====
section
/-! SUPPORT. The address map, and everything a step of the machine can do. -/

namespace Sys2Proof.Machine

/-! ### The address map -/

theorem portAddr_offset {off : Nat} (h : off % 4 = 0) (hle : off ≤ 0xFFC) :
    PortAddr.offset (portAddr off) = off := by
  simp only [PortAddr.offset, portAddr, BitVec.toNat_ofNat]
  omega

theorem offset_lt (a : PortAddr) : PortAddr.offset a ≤ 0xFFC := by
  have := a.isLt
  simp only [PortAddr.offset]
  omega

theorem offset_mod (a : PortAddr) : PortAddr.offset a % 4 = 0 := by
  simp only [PortAddr.offset]
  omega

theorem portAddr_of_offset (a : PortAddr) : portAddr (PortAddr.offset a) = a := by
  apply BitVec.eq_of_toNat_eq
  have := a.isLt
  simp only [PortAddr.offset, portAddr, BitVec.toNat_ofNat]
  omega

/-- The capacities of a legal configuration. -/
theorem capacities {p : Params} (h : p.wellFormed = true) :
    (p.pwMax % 4 = 0 ∧ 4 ≤ p.pwMax ∧ p.pwMax ≤ 1024) ∧
    (p.saltMax % 4 = 0 ∧ 4 ≤ p.saltMax ∧ p.saltMax ≤ 1024) ∧
    (p.dkMax % 4 = 0 ∧ 4 ≤ p.dkMax ∧ p.dkMax ≤ 1024) := by
  simp only [Params.wellFormed, legalCapacity, Bool.and_eq_true, beq_iff_eq, decide_eq_true_eq] at h
  omega

theorem holds_iff {p : Params} {b : Buffer} {off : Nat} :
    b.holds p off = true ↔ b.base ≤ off ∧ off < b.base + b.size p := by
  simp [Buffer.holds]

/-- The buffers of a legal configuration do not overlap. -/
theorem buffers_disjoint {p : Params} (h : p.wellFormed = true) {b c : Buffer} {off : Nat}
    (hb : b.holds p off = true) (hc : c.holds p off = true) : b = c := by
  have := capacities h
  rw [holds_iff] at hb hc
  cases b <;> cases c <;> first | rfl | (simp only [Buffer.base, Buffer.size] at hb hc; omega)

theorem locate_register (p : Params) (r : Reg) : locate p r.offset = some (.reg r) := by
  cases r <;> rfl

theorem find_register_none {off : Nat} (h : ∀ r : Reg, r.offset ≠ off) :
    registers.find? (fun r => r.offset == off) = none := by
  rw [List.find?_eq_none]
  intro r _
  simpa using h r

theorem register_offset_lt (r : Reg) : r.offset ≤ 0x030 := by cases r <;> decide

theorem locate_buffer {p : Params} (h : p.wellFormed = true) {b : Buffer} {off : Nat}
    (hb : b.holds p off = true) : locate p off = some (.buf b) := by
  have hlow : 0x040 ≤ off := by
    have := (holds_iff.mp hb).1
    cases b <;> simp only [Buffer.base] at this <;> omega
  rw [locate, find_register_none fun r => by have := register_offset_lt r; omega]
  have hmem : b ∈ buffers := by cases b <;> decide
  cases hf : buffers.find? (fun c => c.holds p off) with
  | none => exact absurd hb (by simpa using List.find?_eq_none.mp hf b hmem)
  | some c =>
    have := List.find?_some hf
    rw [buffers_disjoint h hb this]
    rfl

theorem locate_none {p : Params} {off : Nat} (hr : ∀ r : Reg, r.offset ≠ off)
    (hb : ∀ b : Buffer, b.holds p off = false) : locate p off = none := by
  rw [locate, find_register_none hr, List.find?_eq_none.mpr fun b _ => by simp [hb b]]
  rfl

/-- What is mapped at an offset is a register there or a buffer that holds it. -/
theorem locate_cases {p : Params} {off : Nat} {q : Place} (h : locate p off = some q) :
    (∃ r : Reg, q = .reg r ∧ r.offset = off) ∨ (∃ b : Buffer, q = .buf b ∧ b.holds p off = true) := by
  unfold locate at h
  split at h
  · next r hr =>
    exact .inl ⟨r, (Option.some.inj h).symm, by simpa using List.find?_some hr⟩
  · simp only [Option.map_eq_some_iff] at h
    obtain ⟨b, hb, rfl⟩ := h
    have := List.find?_some hb
    exact .inr ⟨b, rfl, this⟩

/-! ### Steps -/

theorem step_cons {s : State} {e : Event} {rest : List Event} (h : s.schedule = e :: rest) :
    step s = deliver e (s.withSchedule rest) := by
  simp only [step, h]

theorem step_nil {s : State} (h : s.schedule = []) : step s = engineTurn s := by
  simp only [step, h]

/-- Everything an issue can do: reject an illegal word, or be the issue of the command it decodes to. -/
theorem issue_idle {v : Value32} {s : State} (h : s.busy = false) :
    (∃ i, decodeWord v = .ok i ∧ issue v s = .next (match check i s with
      | none => s.accept (encode i)
      | some e => s.reject (encode i) e)) ∨
    ((∃ e, decodeWord v = .error e) ∧ issue v s = .next (s.reject v .illegalCommand)) := by
  unfold issue
  split
  · next i hi => exact .inl ⟨i, hi, exec_idle i h⟩
  · next e he => exact .inr ⟨⟨e, he⟩, rfl⟩

/-- Everything a Host write can do. -/
theorem hostWrite_cases (a : PortAddr) (v : Value32) (s : State) :
    (PortAddr.offset a = 0x00C ∧
      hostWrite a v s = .next ((if v.getLsbD 0 then s.abort else s).answer (.write .okay))) ∨
    (PortAddr.offset a ≠ 0x00C ∧ hostWrite a v s = .next (s.answer (.write .error))) ∨
    (s.busy = false ∧ PortAddr.offset a = 0x000 ∧
      hostWrite a v s = issue v (s.answer (.write .okay))) ∨
    (s.busy = false ∧ ∃ r : Reg, PortAddr.offset a = r.offset ∧ Place.access (.reg r) = .readWrite ∧
      r ≠ .cmd ∧ hostWrite a v s = .next ((s.answer (.write .okay)).putOperand r v)) ∨
    (s.busy = false ∧ ∃ b : Buffer, b.holds s.params (PortAddr.offset a) = true ∧
      Place.access (.buf b) = .readWrite ∧
      hostWrite a v s = .next ((s.answer (.write .okay)).storeValue (PortAddr.offset a) v)) := by
  unfold hostWrite
  by_cases h0 : PortAddr.offset a = Reg.ctrl.offset
  · rw [if_pos h0]
    exact .inl ⟨h0, rfl⟩
  rw [if_neg h0]
  refine .inr ?_
  cases hl : locate s.params (PortAddr.offset a) with
  | none => exact .inl ⟨h0, rfl⟩
  | some q =>
    by_cases h1 : q.access = .readOnly
    · simp only [if_pos h1]
      exact .inl ⟨h0, trivial⟩
    by_cases h2 : s.busy = true
    · simp only [if_neg h1, if_pos h2]
      exact .inl ⟨h0, trivial⟩
    simp only [if_neg h1, if_neg h2]
    refine .inr ?_
    have hbusy : s.busy = false := by simpa using h2
    rcases locate_cases hl with ⟨r, rfl, hr⟩ | ⟨b, rfl, hb⟩
    · cases r
      case cmd => exact .inl ⟨hbusy, hr.symm, rfl⟩
      case ctrl => exact absurd hr.symm h0
      case keybits => exact .inr (.inl ⟨hbusy, .keybits, hr.symm, rfl, nofun, rfl⟩)
      case pwlen => exact .inr (.inl ⟨hbusy, .pwlen, hr.symm, rfl, nofun, rfl⟩)
      case saltlen => exact .inr (.inl ⟨hbusy, .saltlen, hr.symm, rfl, nofun, rfl⟩)
      case iter => exact .inr (.inl ⟨hbusy, .iter, hr.symm, rfl, nofun, rfl⟩)
      case outbits => exact .inr (.inl ⟨hbusy, .outbits, hr.symm, rfl, nofun, rfl⟩)
      all_goals exact absurd rfl h1
    · refine .inr (.inr ⟨hbusy, b, hb, ?_, rfl⟩)
      cases b <;> first | rfl | exact absurd rfl h1

/-- A write of a writable place of an idle machine, not `CTRL`, performs it. -/
theorem hostWrite_performed {a : PortAddr} {v : Value32} {s : State} {q : Place}
    (h0 : PortAddr.offset a ≠ 0x00C) (hq : locate s.params (PortAddr.offset a) = some q)
    (hacc : q.access ≠ .readOnly) (hidle : s.busy = false) :
    hostWrite a v s = writePlace (PortAddr.offset a) v q (s.answer (.write .okay)) := by
  simp only [hostWrite, Reg.offset, if_neg h0, hq, if_neg hacc, hidle, Bool.false_eq_true, if_false]

/-- The Engine's turn. -/
theorem engineTurn_idle {s : State} (h : s.busy = false) : engineTurn s = .next s := by
  simp [engineTurn, h]

theorem engineTurn_busy {s : State} {i : Instr} (h : s.busy = true) (hd : decodeWord s.cmd = .ok i) :
    engineTurn s = exec i s := by
  simp [engineTurn, engineComplete, h, hd]

/-- Everything the Engine's turn can do when it answers a next state. -/
theorem engineTurn_next {s t : State} (h : engineTurn s = .next t) :
    (s.busy = false ∧ t = s) ∨
    (s.busy = true ∧ ∃ i, decodeWord s.cmd = .ok i ∧ check i s = none ∧
      t = (published i s).complete) := by
  unfold engineTurn at h
  split_ifs at h with hb
  · unfold engineComplete at h
    split at h
    · next i hi =>
      obtain ⟨hc, ht⟩ := exec_busy_next i hb h
      exact .inr ⟨hb, i, hi, hc, ht⟩
    · exact absurd h nofun
  · exact .inl ⟨by simpa using hb, (Host.Outcome.next.inj h).symm⟩

/-! ### Runs -/

/-- A run of any machine that begins with a step to `t` is the rest of the run from `t`. -/
theorem core_run_succ (M : Host.Core) {s t : M.State} (k : Nat) (h : M.step s = .next t) :
    M.run (k + 1) s = M.run k t := by
  simp only [Host.Core.run, h]

/-- A run of this machine that begins with a step to `t` is the rest of the run from `t`. -/
theorem run_succ {s t : State} (k : Nat) (h : step s = .next t) :
    Host.Core.run Sys2Proof.core (k + 1) s = Host.Core.run Sys2Proof.core k t :=
  core_run_succ Sys2Proof.core k h

theorem run_zero (s : State) : Host.Core.run Sys2Proof.core 0 s = .next s := rfl

end Sys2Proof.Machine
end

