-- ==== Sys2Proof/Tests/Slice0.lean ====
section
/-! SUPPORT. Tests: words and values taken from 95_test_vectors (V<n>), and for each obligation with
hypotheses a witness that they can be met together. -/

namespace Sys2Proof.Tests

open Sys2Proof Sys2Proof.Machine Sys2Proof.Claims

/-! ### Helpers -/

/-- An idle machine with the test PRF and the default capacities. -/
def idleState : State := { State.reset with params := { prf := .toy16, pwMax := 256, saltMax := 256, dkMax := 256 } }

/-- The same, busy with the command word `v`. -/
def busyState (v : Value32) : State := { idleState with cmd := v, status := 0x00000001 }

/-- The key of V12 in `KEY`, `KEYBITS = 128`. -/
def withKey (s : State) : State :=
  { s.storeBytes 0x040 [0x2b, 0x7e, 0x15, 0x16, 0x28, 0xae, 0xd2, 0xa6,
      0xab, 0xf7, 0x15, 0x88, 0x09, 0xcf, 0x4f, 0x3c] with keybits := 128 }

/-- The operands of V37: password "ab", salt "c", two iterations, 24 bits. -/
def withPassword (s : State) : State :=
  { (s.storeBytes 0x400 [0x61, 0x62, 0xad, 0xde]).storeBytes 0x800 [0x63, 0, 0, 0] with
    pwlen := 2, saltlen := 1, iter := 2, outbits := 24 }

/-- The columns of V21 in `SIN`. -/
def withColumns (s : State) : State :=
  s.storeBytes 0x060 [0xa9, 0x91, 0xa1, 0xa3, 0xf7, 0xfd, 0x64, 0xa7,
    0xb1, 0xb2, 0x85, 0xc8, 0xbd, 0x55, 0xef, 0x85]

/-- What is seen of the next state, if there is one. -/
def after {α : Type} (o : Host.Outcome State Fault Refusal) (see : State → α) : Option α :=
  match o with
  | .next t => some (see t)
  | .fault _ => none
  | .refused _ => none

/-- One step of the machine on one event. -/
def on (e : Event) (s : State) : Host.Outcome State Fault Refusal := step { s with schedule := [e] }

/-! ### Well-formedness: what the check refuses -/

theorem test_wf_default : idleState.params.wellFormed = true := by decide
theorem test_wf_refuses_pwMax : ({ idleState.params with pwMax := 0 } : Params).wellFormed = false := by decide
theorem test_wf_refuses_saltMax : ({ idleState.params with saltMax := 258 } : Params).wellFormed = false := by decide
theorem test_wf_refuses_dkMax : ({ idleState.params with dkMax := 1028 } : Params).wellFormed = false := by decide
theorem test_legalWord_refuses_opcode : legalWord 0x06000000 = false := by decide
theorem test_legalWord_refuses_z : legalWord 0x01010257 = false := by decide
theorem test_legalWord_refuses_b : legalWord 0x02000153 = false := by decide
theorem test_legalWord_refuses_a : legalWord 0x03000001 = false := by decide
/-- Every command term is well formed (log 19): an ill-formed one does not exist. -/
theorem test_every_command_wellFormed (i : Instr) : i.wellFormed = true := by cases i <;> rfl

/-! ### Decoding: words written out from the fields of 30_encoding R70, R71; V40, V41 -/

theorem test_decode_gfmul : decodeWord 0b00000001_00000000_00000010_01010111 = .ok (.gfmul 0x57 0x02) := by decide
theorem test_decode_subb : decodeWord 0b00000010_00000000_00000000_01010011 = .ok (.subb 0x53) := by decide
theorem test_decode_kexp : decodeWord 0b00000011_00000000_00000000_00000000 = .ok .kexp := by decide
theorem test_decode_mixc : decodeWord 0b00000100_00000000_00000000_00000000 = .ok .mixc := by decide
theorem test_decode_derive : decodeWord 0b00000101_00000000_00000000_00000000 = .ok .derive := by decide
theorem test_decode_refuses_V41 : [0x00000000, 0x00000257, 0x06000000, 0xff000000, 0xffffffff, 0x01010257,
    0x01ff0257, 0x02000153, 0x02010053, 0x03000001, 0x03000080, 0x04000100, 0x05800000].all
      (fun v => (decodeWord v).toOption.isNone) = true := by decide
theorem test_encode_gfmul : encode (.gfmul 0x57 2) = 0x01000257 := by decide
theorem test_decodeTableWord : decodeTableWord 32 0x01000357 = some (.gfmul 0x57 0x03) := by decide

/-! ### The commands, one step each -/

/-- V4: without and with reduction. -/
theorem test_gfmul_completes : [(0x57, 3), (0x80, 2), (0xff, 1)].map (fun (q : Byte × Byte) =>
    after (exec (.gfmul q.1 q.2) (busyState (encode (.gfmul q.1 q.2)))) (fun t => (t.res, t.status))) =
      [some (0x000000f9, 2), some (0x0000001b, 2), some (0x000000ff, 2)] := by decide
/-- V4: a rejected coefficient. -/
theorem test_gfmul_rejects : after (on (.hostWrite (portAddr 0) 0x01000457) idleState)
    (fun t => (t.cmd, t.status, t.err, t.res)) = some (0x01000457, 4, 2, 0) := by decide
/-- V8. -/
theorem test_subb_completes : after (exec (.subb 0x53) (busyState 0x02000053))
    (fun t => (t.res, t.status)) = some (0x000000ed, 2) := by decide
/-- V5. -/
theorem test_sbox_V5 : ([0x00, 0x01, 0x02, 0x10, 0x52, 0x63, 0x7c, 0x80, 0xc9, 0x09, 0x3c, 0x4f, 0xcf, 0xfe, 0xff].map sbox) =
    [0x63, 0x7c, 0x77, 0xca, 0x00, 0xfb, 0x10, 0xcd, 0xdd, 0x01, 0xeb, 0x84, 0x8a, 0xbb, 0x16] := by decide
/-- V12, V17: the last word of the schedule, the tail and `KSINFO`. -/
theorem test_kexp_completes : after (exec .kexp (withKey (busyState 0x03000000)))
    (fun t => (t.ksinfo, t.wordAt 0x1AC, t.wordAt 0x1B0, t.status)) =
      some (0x802c0a04, ⟨0xb6, 0x63, 0x0c, 0xa6⟩, ⟨0, 0, 0, 0⟩, 2) := by decide +kernel
/-- V14, V13: the extra substitution for 256-bit keys, `w[12]`, none for 192-bit keys, `w[10]`; the last
words. -/
theorem test_expand_V14_V13 :
    let w := expand .k256 [0x60, 0x3d, 0xeb, 0x10, 0x15, 0xca, 0x71, 0xbe, 0x2b, 0x73, 0xae, 0xf0, 0x85, 0x7d, 0x77, 0x81,
      0x1f, 0x35, 0x2c, 0x07, 0x3b, 0x61, 0x08, 0xd7, 0x2d, 0x98, 0x10, 0xa3, 0x09, 0x14, 0xdf, 0xf4]
    let u := expand .k192 [0x8e, 0x73, 0xb0, 0xf7, 0xda, 0x0e, 0x64, 0x52, 0xc8, 0x10, 0xf3, 0x2b, 0x80, 0x90, 0x79, 0xe5,
      0x62, 0xf8, 0xea, 0xd2, 0x52, 0x2c, 0x6b, 0x7b]
    ([12, 59].map (fun i => w.getD i Word.zero), [10, 51].map (fun i => u.getD i Word.zero)) =
      ([⟨0xa8, 0xb0, 0x9c, 0x1a⟩, ⟨0x70, 0x6c, 0x63, 0x1e⟩],
       [⟨0x0e, 0x7a, 0x95, 0xb9⟩, ⟨0x01, 0x00, 0x22, 0x02⟩]) := by decide +kernel
/-- V21. -/
theorem test_mixc_completes : after (exec .mixc (withColumns (busyState 0x04000000)))
    (fun t => ([0, 1, 2, 3].map (fun c => lane32 (t.wordAt (0x070 + 4 * c))), t.status)) =
      some ([0x8d9fcbe3, 0xce301d2a, 0x745192f9, 0x77b9b8f4], 2) := by decide +kernel
/-- V20: reduction in both products. -/
theorem test_mixColumn_V20 : (mixColumn ⟨0x80, 0, 0, 0⟩, mixColumn ⟨0xdb, 0x13, 0x53, 0x45⟩) =
    (⟨0x1b, 0x80, 0x80, 0x9b⟩, ⟨0x8e, 0x4d, 0xa1, 0xbc⟩) := by decide
/-- V37: unused lanes do not matter, and the tail of `DK` is zeroed. -/
theorem test_derive_completes : after (exec .derive (withPassword (busyState 0x05000000)))
    (fun t => (t.dklen, lane32 (t.wordAt 0xC00), lane32 (t.wordAt 0xC04), lane32 (t.wordAt 0xCFC), t.status)) =
      some (3, 0x00c70ec5, 0, 0, 2) := by decide +kernel
/-- V33: the spec's scenario S3; V34: empty password and salt; V35: a two-digit block index. -/
theorem test_derive_V33_V34_V35 : (derive toy16 [0x73, 0x33, 0x63, 0x52, 0x33, 0x37] [] 17 128,
      derive toy16 [] [] 3 32, (derive toy16 [0x70] [0x73] 1 176).drop 18) =
    ([0x0a, 0x0d, 0xfb, 0x0d, 0xec, 0x0d, 0xdd, 0x0d, 0xce, 0x0d, 0xbf, 0x0d, 0xd0, 0x0d, 0xc1, 0x0d],
      [0x30, 0x01, 0x31, 0x01], [0x8c, 0x04, 0xb4, 0x05]) := by decide +kernel

/-! ### Checks: V18, V38, V50 -/

theorem test_check_kexp_V18 : [0, 127, 129, 16, 0x80000080].map (fun v => check .kexp { idleState with keybits := v }) =
    List.replicate 5 (some .invalidKeySize) := by decide
theorem test_check_derive_V38 :
    [(0, 0, 999, 999), (2, 20, 999, 1), (2, 7, 2, 1), (2, 24, 257, 1), (2, 24, 2, 257), (2, 2056, 2, 1),
      (2, 2048, 256, 256), (0xffffffff, 8, 0, 0), (1, 0xfffffff8, 0, 0)].map
      (fun (q : Value32 × Value32 × Value32 × Value32) =>
        check .derive { idleState with iter := q.1, outbits := q.2.1, pwlen := q.2.2.1, saltlen := q.2.2.2 }) =
    [some .invalidIterationCount, some .invalidOutputLength, some .invalidOutputLength, some .capacityExceeded,
      some .capacityExceeded, some .capacityExceeded, none, none, some .capacityExceeded] := by decide

/-! ### The port: V60, V41, V70 -/

theorem test_read_unmapped_V60 :
    [0x034, 0x03C, 0x080, 0x0FC, 0x1F0, 0x3FC, 0x500, 0x7FC, 0x900, 0xBFC, 0xD00, 0xFFC].all
      (fun off => after (on (.hostRead (portAddr off)) idleState) (·.reply) == some (some (.read .error 0))) = true := by
  decide +kernel
theorem test_read_hlen_V60 : after (on (.hostRead (portAddr 0x018)) idleState) (·.reply) =
    some (some (.read .okay 0x00000010)) := by decide +kernel
theorem test_write_refused_V60 :
    [0x034, 0x500, 0x004, 0x008, 0x010, 0x014, 0x018, 0x01C, 0x070, 0x100, 0xC00].all
      (fun off => after (on (.hostWrite (portAddr off) 1) idleState) (fun t => (t.reply, t.mem)) ==
        some (some (.write .error), [])) = true := by decide +kernel
/-- The last word of `PW`, first byte least significant. -/
theorem test_write_pw_V60 : after (on (.hostWrite (portAddr 0x4FC) 0x44332211) idleState)
    (fun t => (t.reply, t.bytesAt 0x4FC 4)) = some (some (.write .okay), [0x11, 0x22, 0x33, 0x44]) := by
  decide +kernel
theorem test_write_busy_V60 : after (on (.hostWrite (portAddr 0x040) 0x16157e2b) (busyState 0x03000000))
    (fun t => (t.reply, t.status, t.mem)) = some (some (.write .error), 1, []) := by decide +kernel
theorem test_abort_V60 : after (on (.hostWrite (portAddr 0x00C) 1) (busyState 0x05000000))
    (fun t => (t.reply, t.status, t.cmd)) = some (some (.write .okay), 8, 0x05000000) := by decide +kernel
theorem test_no_abort_V60 : after (on (.hostWrite (portAddr 0x00C) 0xfffffffe) (busyState 0x05000000))
    (fun t => (t.reply, t.status)) = some (some (.write .okay), 1) := by decide +kernel
theorem test_illegal_word_V41 : after (on (.hostWrite (portAddr 0) 0x03000080) idleState)
    (fun t => (t.cmd, t.status, t.err, t.reply)) = some (0x03000080, 4, 7, some (.write .okay)) := by decide +kernel
theorem test_fetched_word_issues : after (step (State.reset.withFetchWord 32 0x02000053))
    (fun t => (t.cmd, t.status)) = some (0x02000053, 1) := by decide +kernel

/-! ### Witnesses: the hypotheses of the obligations can be met -/

theorem busy_busyState (v : Value32) : (busyState v).busy = true := show (1 : Value32).getLsbD 0 = true by decide
theorem idle_idleState : idleState.busy = false := by decide

theorem withKey_keybits (s : State) : (withKey s).keybits = 128 := rfl

/-- The invariant holds of an idle machine with the test PRF and of one that is busy with a checked
command. -/
theorem inv_of (s : State) (h : s ∈ [idleState, busyState 0x04000000, busyState 0x01000357]) : Inv s := by
  simp only [List.mem_cons, List.not_mem_nil, or_false] at h
  rcases h with rfl | rfl | rfl <;>
  exact {
    paramsLegal := by decide
    memCanonical := by decide
    memMapped := fun c hc => absurd hc List.not_mem_nil
    statusOneHot := by decide
    errRaised := by decide
    errIffError := by decide
    busyChecked := by
      first
        | exact fun h => absurd h (by decide)
        | exact fun _ => ⟨.mixc, by decide, by decide⟩
        | exact fun _ => ⟨.gfmul 0x57 3, by decide, by decide⟩
    resByte := by decide
    ksinfoLegal := by decide
    dklenFits := by decide
    rksTail := fun h => absurd h (by decide)
    dkTail := fun h => absurd rfl h }

/-- DecodeAndEncodeAgree, DecoderFollowsOpcodeMap, EveryOtherWordIsIllegal: words of each row. -/
theorem witness_words : ∀ r ∈ opcodeMap, r.accepts r.pattern = true := by decide

/-- HostReadAnswersTheMap: each unmapped range of the default capacities at both ends. -/
theorem witness_unmapped : idleState.params.wellFormed = true ∧
    ∀ off ∈ [0x034, 0x03C, 0x080, 0x0FC, 0x1F0, 0x3FC, 0x500, 0x7FC, 0x900, 0xBFC, 0xD00, 0xFFC],
      off % 4 = 0 ∧ unmapped idleState.params off := by
  unfold unmapped
  decide

/-- HostReadAnswersTheMap: the first and the last word of the three sized buffers, also at the largest
capacity. -/
theorem witness_buffer_words : 4 * 0 < idleState.params.pwMax ∧ 4 * 63 < idleState.params.pwMax ∧
    (⟨.site, 1024, 4, 1024⟩ : Params).wellFormed = true ∧
    4 * 255 < (⟨.site, 1024, 4, 1024⟩ : Params).pwMax ∧ 4 * 0 < (⟨.site, 1024, 4, 1024⟩ : Params).saltMax ∧
    4 * 255 < (⟨.site, 1024, 4, 1024⟩ : Params).dkMax := by decide

/-- HostWriteRefusalsChangeNothing: an unmapped offset, read-only offsets at the ends of their ranges,
a busy Engine. -/
theorem witness_refused_writes :
    (∀ off ∈ [0x034, 0xFFC], off % 4 = 0 ∧ off ≤ 0xFFC ∧ off ≠ 0x00C ∧ unmapped idleState.params off) ∧
    (∀ off ∈ [0x004, 0x01C, 0x070, 0x07C, 0x100, 0x1EC, 0xC00, 0xCFC],
      off % 4 = 0 ∧ off ≤ 0xFFC ∧ off ≠ 0x00C ∧ mappedReadOnly idleState.params off) ∧
    (busyState 0x03000000).params.wellFormed = true ∧ (busyState 0x03000000).busy = true := by
  unfold unmapped mappedReadOnly
  decide

/-- HostWriteStoresTheWord, WriteThenReadReturnsTheValue: the writable buffers at both ends. -/
theorem witness_writable : idleState.params.wellFormed = true ∧ idleState.busy = false ∧
    ∀ off ∈ [0x040, 0x05C, 0x060, 0x06C, 0x400, 0x4FC, 0x800, 0x8FC],
      off % 4 = 0 ∧ writableBuffer idleState.params off := by
  unfold writableBuffer
  decide

/-- IssueFollowsCheck, EveryCommandIssues, IssuedCommandIsCompleted: an idle machine, and every outcome of
`issueCode` (V38, V41, V50). -/
theorem witness_issue : idleState.busy = false ∧
    [0x02000053, 0x03000000, 0x01000457, 0x05000000, 0x06000000].map (fun v => issueCode v idleState) =
      [0, 1, 2, 4, 7] ∧
    [(20, 1), (24, 257), (24, 2)].map (fun (q : Value32 × Value32) =>
      issueCode 0x05000000 { idleState with iter := 2, outbits := q.1, pwlen := q.2 }) = [5, 6, 0] := by
  unfold issueCode
  decide

/-- GfmulCompletes, SubbCompletes, MixcCompletes: a busy machine, and each coefficient. -/
theorem witness_busy : (busyState 0x01000357).busy = true ∧
    ∀ b ∈ ([1, 2, 3] : List Byte), b = 1 ∨ b = 2 ∨ b = 3 := by decide

/-- ExpandFollowsTheRecurrence: a key of each length, and an index at each end of each clause. -/
theorem witness_expand (n : KeySize) : (List.replicate (4 * n.nk) (0 : Byte)).length = 4 * n.nk ∧ 0 < n.nk ∧
    n.nk < n.len ∧ n.nk % n.nk = 0 ∧ n.nk + 1 < n.len ∧ (n.nk + 1) % n.nk ≠ 0 ∧ ¬(n.nk > 6 ∧ (n.nk + 1) % n.nk = 4) := by
  cases n <;> decide
theorem witness_expand_substitutes : KeySize.k256.nk > 6 ∧ (∀ i ∈ [12, 52], KeySize.k256.nk ≤ i ∧ i < KeySize.k256.len ∧
    i % KeySize.k256.nk ≠ 0 ∧ i % KeySize.k256.nk = 4) := by decide

/-- KexpCompletes, ScheduleStartsWithTheKey: a busy machine with each key size, and a completion. -/
theorem witness_kexp (n : KeySize) : ({ busyState 0x03000000 with keybits := BitVec.ofNat 32 (32 * n.nk) } : State).keybits.toNat =
      32 * n.nk ∧ n.len - 1 < n.len ∧ n.len ≤ 60 := by
  cases n <;> decide
theorem witness_schedule_starts : (withKey (busyState 0x03000000)).busy = true ∧
    (∃ t, exec .kexp (withKey (busyState 0x03000000)) = .next t) ∧
    (∀ i ∈ [0, 3], 32 * i < (withKey (busyState 0x03000000)).keybits.toNat) :=
  ⟨busy_busyState 0x03000000, ⟨_, rfl⟩, by decide⟩

/-- MixColumnIsMatrixProduct, BlockCountIsCeiling, DerivePrefixProperty, DeriveBlockClosedForm. -/
theorem witness_bounds : 3 < 4 ∧ 0 < 16 ∧ 0 < 24 ∧ 8 ≤ 24 ∧ toy16.hBPred ≤ toy16.hBPred := by decide
/-- DecimalStringIsDecimal: the only string with a leading zero. -/
theorem witness_leading_zero : (dec 0).head? = some 0x30 := by decide

/-- DeriveCompletes: the operands of V37, and operands exactly at capacity. -/
theorem witness_derive : ∀ s ∈ [withPassword (busyState 0x05000000),
      { busyState 0x05000000 with iter := 2, outbits := 2048, pwlen := 256, saltlen := 256 }],
    s.iter ≠ 0 ∧ s.outbits ≠ 0 ∧ s.outbits % 8 = 0 ∧ s.pwlen.toNat ≤ s.params.pwMax ∧
      s.saltlen.toNat ≤ s.params.saltMax ∧ s.outbits.toNat / 8 ≤ s.params.dkMax := by decide
theorem witness_derive_busy : (withPassword (busyState 0x05000000)).busy = true := busy_busyState 0x05000000

/-- UnusedOperandBytesAreIgnored: two machines that differ in the bytes behind the password and the key,
and complete. -/
theorem witness_unused_bytes :
    (let s := withPassword (busyState 0x05000000)
     let s' := s.storeBytes 0x402 [0xff]
     s'.byteAt 0x402 ≠ s.byteAt 0x402 ∧ (∀ k < s.pwlen.toNat, s'.byteAt (0x400 + k) = s.byteAt (0x400 + k)) ∧
      (∀ k < s.saltlen.toNat, s'.byteAt (0x800 + k) = s.byteAt (0x800 + k))) ∧
    (let s := (withKey (busyState 0x03000000)).storeBytes 0x050 [0]
     let s' := s.storeBytes 0x050 [0xff]
     s'.byteAt 0x050 ≠ s.byteAt 0x050 ∧ ∀ k < 16, s'.byteAt (0x040 + k) = s.byteAt (0x040 + k)) := by decide +kernel
theorem witness_unused_bytes_complete :
    (∃ t, exec .derive ((withPassword (busyState 0x05000000)).storeBytes 0x402 [0xff]) = .next t) ∧
    (∃ t, exec .derive (withPassword (busyState 0x05000000)) = .next t) ∧
    (∃ t, exec .kexp ((withKey (busyState 0x03000000)).storeBytes 0x050 [0]) = .next t) ∧
    (∃ t, exec .kexp ((withKey (busyState 0x03000000)).storeBytes 0x050 [0xff]) = .next t) :=
  ⟨⟨_, rfl⟩, ⟨_, rfl⟩, ⟨_, rfl⟩, ⟨_, rfl⟩⟩

/-- StepRunsTheDecodedCommand: a busy and an idle machine with a command word. -/
theorem witness_step : (busyState 0x02000053).busy = true ∧ decodeWord (busyState 0x02000053).cmd = .ok (.subb 0x53) ∧
    idleState.busy = false ∧ decodeWord 0x04000000 = .ok .mixc := by decide
/-- FetchWordIsIssuedNext. -/
theorem witness_fetch_word : 0x0100ffff < 2 ^ 32 ∧ decodeTableWord 32 0x0100ffff = some (.gfmul 0xff 0xff) := by decide
/-- IdleMachineStaysAsItIs. -/
theorem witness_idle : idleState.schedule = [] ∧ idleState.busy = false := by decide

/-- StepKeepsTheInvariant, RunsNeverStop, StatusTransitions, AcceptedCommandsComplete, AbortAndCompletionRace:
states that meet the invariant, idle and busy, with a step that changes `STATUS`. -/
theorem witness_invariant : Inv idleState ∧ Inv (busyState 0x04000000) ∧ (busyState 0x04000000).busy = true ∧
    (∃ t, step (busyState 0x04000000) = .next t ∧ t.status ≠ (busyState 0x04000000).status) ∧
    (∃ t, step (idleState.withFetchWord 32 0x02000053) = .next t ∧ t.status ≠ idleState.status) ∧
    (∀ e ∈ (busyState 0x04000000).schedule, spares e) :=
  ⟨inv_of _ (by simp), inv_of _ (by simp), busy_busyState _, ⟨_, rfl, by decide⟩, ⟨_, rfl, by decide⟩,
    fun _ h => absurd h List.not_mem_nil⟩
/-- The abort and the reset of StatusTransitions. -/
theorem witness_abort_and_reset :
    (∃ t, on (.hostWrite (portAddr 0x00C) 1) (busyState 0x04000000) = .next t ∧ t.status = 8) ∧
    (∃ t, on .reset (busyState 0x04000000) = .next t ∧ t.status = 0) :=
  ⟨⟨_, rfl, by decide⟩, ⟨_, rfl, by decide⟩⟩

/-- EngineStopsOnlyOnUncheckedCommands: both sides of each equivalence. -/
theorem witness_engine_stops :
    (∃ f, exec (.gfmul 0x57 4) (busyState 0x01000457) = .fault f) ∧
    (∃ f, on .engine (busyState 0x06000000) = .fault f) ∧
    issueCode 0x01000357 (busyState 0x01000357) = 0 := by
  refine ⟨⟨_, rfl⟩, ⟨_, rfl⟩, ?_⟩
  unfold issueCode
  decide

/-- OperandsAreFrozenWhileBusy, ResultDependsOnTheIssueStateOnly, ResultsChangeOnlyAtCompletion: plain
transactions of a busy machine, and its completion. -/
theorem witness_plain : (busyState 0x04000000).params.wellFormed = true ∧ (busyState 0x04000000).busy = true ∧
    (∀ e ∈ [Event.hostRead (portAddr 0x004), .hostWrite (portAddr 0x040) 1, .hostWrite (portAddr 0x00C) 0],
      isPlainTransaction e) ∧
    (∃ t, on .engine (busyState 0x04000000) = .next t) ∧
    (∃ t, on (.hostRead (portAddr 0x070)) (busyState 0x04000000) = .next t) := by
  refine ⟨by decide, busy_busyState _, ?_, ⟨_, rfl⟩, ⟨_, rfl⟩⟩
  intro e he
  simp only [List.mem_cons, List.not_mem_nil, or_false] at he
  rcases he with rfl | rfl | rfl
  · trivial
  · exact fun h => absurd h.1 (by decide)
  · exact fun h => absurd h.2 (by decide)
/-- ResultsChangeOnlyAtCompletion: each result buffer at both ends. -/
theorem witness_result_buffers : ∀ x ∈ [0x070, 0x07F, 0x100, 0x1EF, 0xC00, 0xCFF], inResultBuffer idleState.params x := by
  unfold inResultBuffer
  decide
/-- ConfigurationNeverChanges, NoStepIsRefused: a step. -/
theorem witness_step_exists : ∃ t, step idleState = .next t := ⟨_, rfl⟩

end Sys2Proof.Tests
end

section
/-! PROOF. The decoder against the encoder, and `issueCode` (30_encoding R78 written with masks) against
the decoder and the commands' own checks. -/

namespace Sys2Proof

/-- The encoder's word of a command decodes to it (30_encoding R71, R75). -/
@[simp] theorem decodeWord_encode (i : Instr) : decodeWord (encode i) = .ok i := by
  rw [decodeWord_ok]
  cases i <;> simp [encode]

/-- A word that decodes is the encoder's word of its command (30_encoding R75, R79). -/
theorem encode_of_decodeWord {v : Value32} {i : Instr} (h : decodeWord v = .ok i) : encode i = v := by
  have hv := assemble_fields v
  rcases decodeWord_ok.mp h with ⟨ho, hz, rfl⟩ | ⟨ho, hz, hb, rfl⟩ | ⟨ho, hz, hb, ha, rfl⟩ |
    ⟨ho, hz, hb, ha, rfl⟩ | ⟨ho, hz, hb, ha, rfl⟩
  · rw [ho] at hv; exact hv hz
  · rw [ho, hb] at hv; exact hv hz
  all_goals rw [ho, hb, ha] at hv; exact hv hz

/-! ### Masks of the opcode map, field by field -/

/-- A word is its four fields (30_encoding R70). -/
theorem eq_iff_fields {v w : Value32} : v = w ↔
    fieldOpc v = fieldOpc w ∧ fieldZ v = fieldZ w ∧ fieldB v = fieldB w ∧ fieldA v = fieldA w := by
  refine ⟨fun h => by simp [h], fun ⟨ho, hz, hb, ha⟩ => ?_⟩
  simp only [fieldOpc, fieldZ, fieldB, fieldA, ← BitVec.toNat_inj, BitVec.extractLsb'_toNat,
    Nat.shiftRight_eq_div_pow] at ho hz hb ha
  apply BitVec.eq_of_toNat_eq
  omega

theorem and_eq_iff_fields {v m w : Value32} : v &&& m = w ↔
    fieldOpc v &&& fieldOpc m = fieldOpc w ∧ fieldZ v &&& fieldZ m = fieldZ w ∧
    fieldB v &&& fieldB m = fieldB w ∧ fieldA v &&& fieldA m = fieldA w := by
  rw [eq_iff_fields]
  simp only [fieldOpc, fieldZ, fieldB, fieldA, BitVec.extractLsb'_and]

theorem byte_and_ff (b : Byte) : b &&& 255#8 = b := BitVec.and_allOnes

/-- The row of `GFMUL` (30_encoding R75) tests `opc` and `z`. -/
theorem gfmulMask_iff {v : Value32} :
    v &&& 0xFFFF0000 = 0x01000000 ↔ fieldOpc v = opcGfmul ∧ fieldZ v = 0 := by
  rw [and_eq_iff_fields]
  simp [fieldOpc, fieldZ, fieldB, fieldA, byte_and_ff, opcGfmul]

/-- The row of `SUBB` (30_encoding R75) tests `opc`, `z` and `b`. -/
theorem subbMask_iff {v : Value32} :
    v &&& 0xFFFFFF00 = 0x02000000 ↔ fieldOpc v = opcSubb ∧ fieldZ v = 0 ∧ fieldB v = 0 := by
  rw [and_eq_iff_fields]
  simp [fieldOpc, fieldZ, fieldB, fieldA, byte_and_ff, opcSubb]

/-- The coefficient test of 30_encoding R78 reads the field `b`. -/
theorem multiplier_iff {v : Value32} {n : Byte} :
    (v >>> 8) &&& 0xFF = n.setWidth 32 ↔ fieldB v = n := by
  have hmask : (v >>> 8) &&& 0xFF = (fieldB v).setWidth 32 := by
    apply BitVec.eq_of_toNat_eq
    have := Nat.and_two_pow_sub_one_eq_mod (v.toNat >>> 8) 8
    have hlt := (fieldB v).isLt
    rw [BitVec.toNat_setWidth, Nat.mod_eq_of_lt (by omega)]
    simpa [fieldB] using this
  rw [hmask, ← BitVec.toNat_inj, ← BitVec.toNat_inj, BitVec.toNat_setWidth, BitVec.toNat_setWidth]
  omega

end Sys2Proof

namespace Sys2Proof.Machine

open Sys2Proof.Claims

/-! ### `issueCode` -/

/-- A coefficient is allowed exactly when it is 1, 2 or 3 (40_galois_field R101, R103). -/
theorem errorOf_checkGfmul (b : Byte) : errorOf (checkGfmul b) =
    if b = 1 ∨ b = 2 ∨ b = 3 then none else some .invalidMultiplier := by
  unfold checkGfmul coeffOf
  split_ifs <;> simp_all [errorOf]

theorem errorOf_checkKexp (s : State) : errorOf (checkKexp s) =
    if s.keybits = 128 ∨ s.keybits = 192 ∨ s.keybits = 256 then none else some .invalidKeySize := by
  unfold checkKexp keySizeOf
  split_ifs <;> simp_all [errorOf]

theorem errorOf_checkDerive (s : State) : errorOf (checkDerive s) =
    if s.iter = 0 then some .invalidIterationCount
    else if s.outbits = 0 ∨ s.outbits % 8 ≠ 0 then some .invalidOutputLength
    else if s.pwlen.toNat > s.params.pwMax ∨ s.saltlen.toNat > s.params.saltMax ∨
      s.outBytes > s.params.dkMax then some .capacityExceeded
    else none := by
  have hzero : ∀ x : Value32, x.toNat = 0 ↔ x = 0 := fun x => by simp [← BitVec.toNat_inj]
  have hmod : s.outbits.toNat % 8 = 0 ↔ s.outbits % 8 = 0 := by simp [← BitVec.toNat_inj]
  unfold checkDerive
  simp only [hzero, ne_eq, hmod, apply_ite errorOf]
  rfl

/-- `Check(v)` of a command's word is the command's own check, as a number (30_encoding R78). -/
theorem issueCode_encode (i : Instr) (s : State) :
    issueCode (encode i) s = (check i s).elim 0 ErrorCode.code := by
  have hkexp : encode .kexp = 0x03000000 := by decide
  have hmixc : encode .mixc = 0x04000000 := by decide
  have hderive : encode .derive = 0x05000000 := by decide
  cases i with
  | gfmul a b =>
    have hrow : encode (.gfmul a b) &&& 0xFFFF0000 = 0x01000000 :=
      gfmulMask_iff.mpr (by simp [encode])
    have hb (n : Byte) : (encode (.gfmul a b) >>> 8) &&& 0xFF = n.setWidth 32 ↔ b = n := by
      rw [multiplier_iff, encode, fieldB_assemble]
    rw [issueCode, if_pos hrow, check, errorOf_checkGfmul, apply_ite (Option.elim · 0 ErrorCode.code)]
    exact if_congr (or_congr (hb 1) (or_congr (hb 2) (hb 3))) rfl rfl
  | subb a =>
    have hother : ¬encode (.subb a) &&& 0xFFFF0000 = 0x01000000 := by
      rw [gfmulMask_iff]
      simp [encode, opcSubb, opcGfmul]
    have hrow : encode (.subb a) &&& 0xFFFFFF00 = 0x02000000 :=
      subbMask_iff.mpr (by simp [encode])
    rw [issueCode, if_neg hother, if_pos hrow]
    rfl
  | kexp =>
    rw [check, errorOf_checkKexp, hkexp, apply_ite (Option.elim · 0 ErrorCode.code)]
    rfl
  | mixc => rw [hmixc]; rfl
  | derive =>
    rw [check, errorOf_checkDerive, hderive]
    simp only [apply_ite (Option.elim · 0 ErrorCode.code)]
    rfl

/-- `Check(v)` of a word that is no command is `IllegalCommand` (30_encoding R76, R78). -/
theorem issueCode_illegal {v : Value32} {e : DecodeError} (h : decodeWord v = .error e) (s : State) :
    issueCode v s = 7 := by
  have hno (i : Instr) : decodeWord v ≠ .ok i := by simp [h]
  have hword (i : Instr) : v ≠ encode i := fun hv => hno i (hv ▸ decodeWord_encode i)
  have hgfmul : ¬v &&& 0xFFFF0000 = 0x01000000 := fun hm =>
    hno _ (decodeWord_ok.mpr (.inl ⟨(gfmulMask_iff.mp hm).1, (gfmulMask_iff.mp hm).2, rfl⟩))
  have hsubb : ¬v &&& 0xFFFFFF00 = 0x02000000 := fun hm => by
    obtain ⟨ho, hz, hb⟩ := subbMask_iff.mp hm
    exact hno _ (decodeWord_ok.mpr (.inr (.inl ⟨ho, hz, hb, rfl⟩)))
  have hkexp : v ≠ 0x03000000 := hword .kexp
  have hmixc : v ≠ 0x04000000 := hword .mixc
  have hderive : v ≠ 0x05000000 := hword .derive
  rw [issueCode, if_neg hgfmul, if_neg hsubb, if_neg hkexp, if_neg hmixc, if_neg hderive]

theorem ErrorCode.code_ne_zero (e : ErrorCode) : e.code ≠ 0 := by cases e <;> decide

theorem issueCode_encode_ne_zero {i : Instr} {s : State} :
    issueCode (encode i) s ≠ 0 ↔ check i s ≠ none := by
  rw [issueCode_encode]
  cases check i s with
  | none => simp
  | some e => simpa using e.code_ne_zero

end Sys2Proof.Machine
end

section
/-! PROOF. What a step of the machine can do, said once: the step as the delivery of one event, and the
inversion of a delivery that answers a next state. -/

namespace Sys2Proof.Machine

variable {s t : State}

/-! ### A step is the delivery of one event -/

theorem step_scheduled (s : State) (e : Event) (rest : List Event) :
    step { s with schedule := e :: rest } = deliver e { s with schedule := rest } := rfl

/-- A step delivers the event at the head of the schedule; with nothing scheduled, the Engine's turn
(log 6, 7). -/
theorem step_eq_deliver (s : State) :
    step s = deliver (s.schedule.headD .engine) (s.withSchedule s.schedule.tail) := by
  cases h : s.schedule with
  | nil =>
    have hs : s.withSchedule [] = s := by rw [← h]; rfl
    rw [step_nil h, List.tail_nil, hs]
    rfl
  | cons e rest => rw [step_cons h]; rfl

/-! ### The port at an offset -/

theorem ctrl_offset : PortAddr.offset (portAddr 0x00C) = Reg.ctrl.offset :=
  portAddr_offset (by decide) (by decide)

theorem cmd_offset : PortAddr.offset (portAddr 0x000) = Reg.cmd.offset :=
  portAddr_offset (by decide) (by decide)

/-- A write to `CTRL` in any state (10_state R29). -/
theorem hostWrite_ctrl (v : Value32) (s : State) : hostWrite (portAddr 0x00C) v s =
    .next ((if v.getLsbD 0 then s.abort else s).answer (.write .okay)) := by
  rw [hostWrite, if_pos ctrl_offset]

/-- A write of a command's word to `CMD` of an idle machine (30_encoding R78). -/
theorem hostWrite_cmd {v : Value32} {i : Instr} (h : s.busy = false) (hv : decodeWord v = .ok i) :
    hostWrite (portAddr 0x000) v s = exec i (s.answer (.write .okay)) := by
  have hloc : locate s.params (PortAddr.offset (portAddr 0x000)) = some (.reg .cmd) := by
    rw [cmd_offset, locate_register]
  rw [hostWrite_performed (by rw [cmd_offset]; decide) hloc nofun h]
  simp only [writePlace, issue, hv]

/-! ### Faults of the Engine -/

/-- `exec` of a busy machine faults exactly when the command's check fails (10_state R45, log 12). -/
theorem exec_fault_iff (i : Instr) (h : s.busy = true) :
    (∃ f, exec i s = .fault f) ↔ check i s ≠ none := by
  constructor
  · rintro ⟨f, hf⟩ hc
    rw [exec_busy i h hc] at hf
    cases hf
  · intro hc
    cases he : exec i s with
    | next t => exact absurd (exec_busy_next i h he).1 hc
    | fault f => exact ⟨f, rfl⟩
    | refused r => exact absurd he (exec_not_refused i r)

/-! ### Inversion of a step -/

/-- The error of a command's check is never `InvalidStateShape` (43_mix_columns R143). -/
theorem check_ne_invalidStateShape (i : Instr) (s : State) : check i s ≠ some .invalidStateShape := by
  cases i with
  | gfmul a b => rw [check, errorOf_checkGfmul]; split_ifs <;> exact nofun
  | subb a => exact nofun
  | kexp => rw [check, errorOf_checkKexp]; split_ifs <;> exact nofun
  | mixc => exact nofun
  | derive => rw [check, errorOf_checkDerive]; split_ifs <;> exact nofun

/-- What the event `e` can make of a state, when it answers a next one: one constructor for each way. -/
inductive Effect (s : State) : Event → State → Prop
  /-- A read (20_memory R51). -/
  | read (a : PortAddr) : Effect s (.hostRead a) (s.answer (s.readReply a))
  /-- A write that the port refuses, or a write to `CTRL` that aborts nothing (20_memory R52, 10_state
  R29). -/
  | answered (a : PortAddr) (v : Value32) (resp : PortResponse) :
      Effect s (.hostWrite a v) (s.answer (.write resp))
  /-- A write to `CTRL` that aborts the running command (60_exceptions R178). -/
  | aborted (a : PortAddr) (v : Value32) (hoff : PortAddr.offset a = 0x00C)
      (hbit : v.getLsbD 0 = true) (hbusy : s.busy = true) :
      Effect s (.hostWrite a v) (s.abort.answer (.write .okay))
  /-- A write to `CMD` whose command is accepted (30_encoding R78). -/
  | accepted (a : PortAddr) (v : Value32) (i : Instr) (hoff : PortAddr.offset a = 0x000)
      (hidle : s.busy = false) (hword : decodeWord v = .ok i) (hcheck : check i s = none) :
      Effect s (.hostWrite a v) ((s.answer (.write .okay)).accept v)
  /-- A write to `CMD` whose word is rejected (30_encoding R76, R78). -/
  | rejected (a : PortAddr) (v : Value32) (e : ErrorCode) (hoff : PortAddr.offset a = 0x000)
      (hidle : s.busy = false) (he : e ≠ .invalidStateShape) :
      Effect s (.hostWrite a v) ((s.answer (.write .okay)).reject v e)
  /-- A write of an operand register (10_state R22). -/
  | operand (a : PortAddr) (v : Value32) (reg : Reg) (hidle : s.busy = false) :
      Effect s (.hostWrite a v) ((s.answer (.write .okay)).putOperand reg v)
  /-- A write of a word of a writable buffer (20_memory R52). -/
  | stored (a : PortAddr) (v : Value32) (b : Buffer) (hidle : s.busy = false)
      (hb : b.holds s.params (PortAddr.offset a) = true)
      (haccess : Place.access (.buf b) = .readWrite) :
      Effect s (.hostWrite a v) ((s.answer (.write .okay)).storeValue (PortAddr.offset a) v)
  /-- The Engine's turn of an idle machine (log 7, 8). -/
  | skipped (hidle : s.busy = false) : Effect s .engine s
  /-- `EngineComplete` (10_state R45). -/
  | completed (i : Instr) (hbusy : s.busy = true) (hword : decodeWord s.cmd = .ok i)
      (hcheck : check i s = none) : Effect s .engine (published i s).complete
  /-- `Reset` (70_reset_and_hazards R190). -/
  | reset : Effect s .reset (resetStep s)

/-- An issue of an idle machine accepts a checked command or rejects the word. -/
theorem issue_effect {a : PortAddr} {v : Value32} (hoff : PortAddr.offset a = 0x000)
    (hidle : s.busy = false) :
    ∃ t, issue v (s.answer (.write .okay)) = .next t ∧ Effect s (.hostWrite a v) t := by
  rcases issue_idle (v := v) (s := s.answer (.write .okay)) hidle with ⟨i, hi, h⟩ | ⟨-, h⟩
  · refine ⟨_, h, ?_⟩
    rw [encode_of_decodeWord hi]
    cases hc : check i (s.answer (.write .okay)) with
    | none => exact .accepted a v i hoff hidle hi hc
    | some e => exact .rejected a v e hoff hidle fun he => check_ne_invalidStateShape i _ (he ▸ hc)
  · exact ⟨_, h, .rejected a v _ hoff hidle nofun⟩

/-- A Host write always answers a next state, by one of its effects. -/
theorem hostWrite_effect (a : PortAddr) (v : Value32) (s : State) :
    ∃ t, hostWrite a v s = .next t ∧ Effect s (.hostWrite a v) t := by
  rcases hostWrite_cases a v s with ⟨hoff, h⟩ | ⟨-, h⟩ | ⟨hidle, hoff, h⟩ | ⟨hidle, reg, -, -, -, h⟩ |
    ⟨hidle, b, hb, haccess, h⟩
  · refine ⟨_, h, ?_⟩
    by_cases habort : v.getLsbD 0 = true ∧ s.busy = true
    · rw [if_pos habort.1]
      exact .aborted a v hoff habort.1 habort.2
    · have hsame : (if v.getLsbD 0 then s.abort else s) = s := by
        split_ifs with hbit
        · exact s.abort_of_idle (by simpa [hbit] using habort)
        · rfl
      rw [hsame]
      exact .answered a v _
  · exact ⟨_, h, .answered a v _⟩
  · rw [h]
    exact issue_effect hoff hidle
  · exact ⟨_, h, .operand a v reg hidle⟩
  · exact ⟨_, h, .stored a v b hidle hb haccess⟩

/-- Everything a delivery that answers a next state can do. -/
theorem deliver_effect {e : Event} (h : deliver e s = .next t) : Effect s e t := by
  cases e with
  | hostRead a =>
    obtain rfl := Host.Outcome.next.inj h
    exact .read a
  | hostWrite a v =>
    obtain ⟨t', ht', heff⟩ := hostWrite_effect a v s
    obtain rfl := Host.Outcome.next.inj (ht'.symm.trans h)
    exact heff
  | engine =>
    rcases engineTurn_next h with ⟨hidle, rfl⟩ | ⟨hbusy, i, hword, hcheck, rfl⟩
    · exact .skipped hidle
    · exact .completed i hbusy hword hcheck
  | reset =>
    obtain rfl := Host.Outcome.next.inj h
    exact .reset

/-- Everything a step that answers a next state can do. -/
theorem step_effect (h : step s = .next t) :
    Effect (s.withSchedule s.schedule.tail) (s.schedule.headD .engine) t := by
  rw [step_eq_deliver] at h
  exact deliver_effect h

end Sys2Proof.Machine
end

section
/-! PROOF. What a completing command publishes: the sizes of the results, and what it leaves unchanged. -/

namespace Sys2Proof.Machine

variable (s : State)

/-! ### Sizes of results -/

theorem le_blockCount_mul {hLen : Nat} (h : 0 < hLen) (n : Nat) : n ≤ blockCount hLen n * hLen := by
  have := Nat.lt_div_mul_add (a := n + hLen - 1) h
  simp only [blockCount]
  omega

/-- `derive` gives exactly `n div 8` bytes (44_key_derivation R155 (b)). -/
@[simp] theorem length_derive {Ctx : Type} (p : Prf Ctx) (P S : List Byte) (c n : Nat) :
    (derive p P S c n).length = n / 8 := by
  have hblocks : n ≤ 8 * (blockCount p.hLen n * p.hB) := by
    have hpos : 0 < p.hLen := by simp only [Prf.hLen, Prf.hB]; omega
    calc n ≤ blockCount p.hLen n * p.hLen := le_blockCount_mul hpos n
      _ = 8 * (blockCount p.hLen n * p.hB) := by rw [Prf.hLen]; ring
  rw [derive, List.length_take, length_blocks]
  omega

@[simp] theorem length_derivedKey : s.derivedKey.length = s.outBytes := length_derive _ _ _ _ _

@[simp] theorem length_expand (n : KeySize) (key : List Byte) : (expand n key).length = n.len := by
  have := n.nk_le_len
  rw [expand, length_extendSchedule, length_keyBlock]
  omega

/-- `KEXP` writes all of `RKS` (42_key_schedule R130). -/
@[simp] theorem length_rksImage (n : KeySize) (key : List Byte) : (rksImage n key).length = 240 := by
  have := n.len_le
  rw [rksImage, List.length_append, length_flatMap_bytes, length_expand, length_zeros]
  omega

/-! ### The frame of a completion -/

/-- A completing command writes `RES`, `KSINFO`, `DKLEN` and buffers, and nothing else. -/
theorem published_frame (i : Instr) : published i s = { s with
    res := (published i s).res
    ksinfo := (published i s).ksinfo
    dklen := (published i s).dklen
    mem := (published i s).mem } := by
  cases i with
  | gfmul a b => simp only [published]; cases coeffOf b <;> rfl
  | subb a => rfl
  | kexp => simp only [published]; cases keySizeOf s.keybits <;> rfl
  | mixc => rfl
  | derive => rfl

@[simp] theorem published_busy (i : Instr) : (published i s).busy = s.busy := by
  rw [published_frame]; rfl
@[simp] theorem published_params (i : Instr) : (published i s).params = s.params := by
  rw [published_frame]

/-- What `KEXP` publishes when its check passes. -/
theorem published_kexp {n : KeySize} (h : keySizeOf s.keybits = some n) :
    published .kexp s = publishKexp s n := by
  rw [published, h, Option.elim_some]

theorem checkKexp_of_check (h : check .kexp s = none) : ∃ n, keySizeOf s.keybits = some n := by
  cases hk : keySizeOf s.keybits with
  | some n => exact ⟨n, rfl⟩
  | none => simp [check, checkKexp, hk, errorOf] at h

theorem checkDerive_of_check (h : check .derive s = none) : checkDerive s = .ok () := by
  cases hd : checkDerive s with
  | ok u => rfl
  | error e => simp [check, hd, errorOf] at h

/-! ### The result buffers of `KEXP` and `DERIVE` -/

/-- The bytes of `RKS` after `KEXP`. -/
theorem publishKexp_rks (n : KeySize) {k : Nat} (hk : k < 240) :
    (publishKexp s n).byteAt (Buffer.rks.base + k) = (rksImage n (s.keyBytes n)).getD k 0 := by
  rw [publishKexp, State.putKsinfo_byteAt, State.storeBytes_byteAt, length_rksImage,
    if_pos (by omega), Nat.add_sub_cancel_left]

/-- The bytes of `DK` after a `DERIVE` whose length fits. -/
theorem publishDerive_dk {k : Nat} (hfits : s.outBytes ≤ s.params.dkMax)
    (hk : k < s.params.dkMax) : (publishDerive s).byteAt (Buffer.dk.base + k) =
      (s.derivedKey ++ zeros (s.params.dkMax - s.outBytes)).getD k 0 := by
  have hlen : (s.derivedKey ++ zeros (s.params.dkMax - s.outBytes)).length = s.params.dkMax := by
    rw [List.length_append, length_derivedKey, length_zeros]
    omega
  rw [publishDerive, State.putDklen_byteAt, State.storeBytes_byteAt, hlen, if_pos (by omega),
    Nat.add_sub_cancel_left]

end Sys2Proof.Machine
end

section
/-! PROOF. The invariant under each update of the state, and under each effect of a step. -/

namespace Sys2Proof.Machine

variable {s t : State}

/-! ### `STATUS` -/

/-- A state that meets the invariant is busy exactly when `STATUS` is 1 (10_state R27). -/
theorem Inv.busy_iff (h : Inv s) : s.busy = true ↔ s.status = statusBusy := by
  have hstatus := h.statusOneHot
  simp only [List.mem_cons, List.not_mem_nil, or_false] at hstatus
  unfold State.busy
  rcases hstatus with h | h | h | h | h <;> rw [h] <;> decide

/-- While busy no error is recorded (10_state R28, 30_encoding R78). -/
theorem Inv.err_of_busy (h : Inv s) (hbusy : s.busy = true) : s.err = 0 := by
  have hnoerror : ¬s.error = true := by
    rw [State.error, h.busy_iff.mp hbusy]
    decide
  exact not_not.mp fun herr => hnoerror (h.errIffError.mp herr)

theorem Inv.withSchedule (h : Inv s) (es : List Event) : Inv (s.withSchedule es) := { h with }

theorem Inv.answer (h : Inv s) (r : Reply) : Inv (s.answer r) := { h with }

theorem Inv.putOperand (h : Inv s) (hidle : s.busy = false) (r : Reg) (v : Value32) :
    Inv (s.putOperand r v) := by
  have hfree : s.busy = true → ∃ i, decodeWord s.cmd = .ok i ∧ check i (s.putOperand r v) = none :=
    fun hb => absurd hb (by simp [hidle])
  cases r <;> exact { h with busyChecked := hfree }

/-- A busy Engine that stops running, by completion or by abort. -/
theorem Inv.leaveBusy (h : Inv s) (hbusy : s.busy = true) {st : Value32}
    (hst : st = statusDone ∨ st = statusAborted) : Inv { s with status := st } := by
  have hflags : st.getLsbD 0 = false ∧ st.getLsbD 2 = false := by
    rcases hst with rfl | rfl <;> decide
  exact { h with
    statusOneHot := by rcases hst with rfl | rfl <;> simp
    errIffError := iff_of_false (not_not_intro (h.err_of_busy hbusy)) (Bool.eq_false_iff.mp hflags.2)
    busyChecked := fun hb => absurd hb (Bool.eq_false_iff.mp hflags.1) }

theorem Inv.complete (h : Inv s) (hbusy : s.busy = true) : Inv s.complete :=
  h.leaveBusy hbusy (.inl rfl)

theorem Inv.abort (h : Inv s) : Inv s.abort := by
  unfold State.abort
  split_ifs with hbusy
  · exact h.leaveBusy hbusy (.inr rfl)
  · exact h

theorem Inv.accept (h : Inv s) {v : Value32} {i : Instr} (hword : decodeWord v = .ok i)
    (hcheck : check i s = none) : Inv (s.accept v) :=
  { h with
    statusOneHot := by simp
    errRaised := by simp
    errIffError := by simp
    busyChecked := fun _ => ⟨i, hword, hcheck⟩ }

theorem ErrorCode.code_raised (e : ErrorCode) (he : e ≠ .invalidStateShape) :
    e.code ∈ ([0, 1, 2, 4, 5, 6, 7] : List Value32) := by
  cases e
  case invalidStateShape => exact absurd rfl he
  all_goals decide

theorem Inv.reject (h : Inv s) (v : Value32) {e : ErrorCode} (he : e ≠ .invalidStateShape) :
    Inv (s.reject v e) :=
  { h with
    statusOneHot := by simp
    errRaised := e.code_raised he
    errIffError := by simpa using e.code_ne_zero
    busyChecked := fun hb => absurd hb (by simp) }

/-! ### Buffers -/

/-- A run of `n` bytes at an offset lies in the buffer. -/
def Buffer.HoldsRun (p : Params) (b : Buffer) (off n : Nat) : Prop :=
  b.base ≤ off ∧ off + n ≤ b.base + b.size p

theorem Buffer.HoldsRun.holds {p : Params} {b : Buffer} {off n x : Nat} (h : b.HoldsRun p off n)
    (hx : off ≤ x ∧ x < off + n) : b.holds p x = true := by
  obtain ⟨hlow, hhigh⟩ := h
  rw [holds_iff]
  omega

theorem inBuffers_of_holds {p : Params} {b : Buffer} {x : Nat} (h : b.holds p x = true) :
    inBuffers p x = true :=
  List.any_eq_true.mpr ⟨b, by cases b <;> decide, h⟩

/-- The word at a word offset of a buffer lies in it whole, since capacities are multiples of 4
(00_scope R8). -/
theorem holdsRun_word {p : Params} (hp : p.wellFormed = true) {b : Buffer} {off : Nat}
    (halign : off % 4 = 0) (hb : b.holds p off = true) : b.HoldsRun p off 4 := by
  have := capacities hp
  rw [holds_iff] at hb
  cases b <;> simp only [Buffer.HoldsRun, Buffer.base, Buffer.size] at hb ⊢ <;> omega

section Store

variable {b c : Buffer} {off : Nat} {bs : List Byte}

/-- A store inside one buffer leaves the bytes of every other. -/
theorem storeBytes_byteAt_of_ne (hp : s.params.wellFormed = true)
    (hrun : b.HoldsRun s.params off bs.length) (hne : c ≠ b) {x : Nat}
    (hx : c.holds s.params x = true) : (s.storeBytes off bs).byteAt x = s.byteAt x :=
  s.storeBytes_byteAt_out off bs x fun hin => hne (buffers_disjoint hp hx (hrun.holds hin))

theorem storeBytes_mapped (hmapped : ∀ c ∈ s.mem, inBuffers s.params c.1 = true)
    (hrun : b.HoldsRun s.params off bs.length) :
    ∀ c ∈ (s.storeBytes off bs).mem, inBuffers s.params c.1 = true := by
  intro c hc
  rcases Memory.mem_store hc with hold | hnew
  · exact hmapped c hold
  · exact inBuffers_of_holds (hrun.holds hnew)

theorem rks_holds {p : Params} {i k : Nat} (hi : i < 60) (hk : k < 4) :
    Buffer.rks.holds p (Buffer.rks.base + 4 * i + k) = true := by
  rw [holds_iff]
  simp only [Buffer.base, Buffer.size]
  omega

theorem dk_holds {p : Params} {k : Nat} (hk : k < p.dkMax) :
    Buffer.dk.holds p (Buffer.dk.base + k) = true := by
  rw [holds_iff]
  simp only [Buffer.base, Buffer.size]
  omega

/-- A store outside `RKS` leaves its words. -/
theorem storeBytes_rks (hp : s.params.wellFormed = true)
    (hrun : b.HoldsRun s.params off bs.length) (hne : b ≠ .rks) {i : Nat} (hi : i < 60) :
    (s.storeBytes off bs).wordAt (Buffer.rks.base + 4 * i) = s.wordAt (Buffer.rks.base + 4 * i) :=
  State.wordAt_congr fun _ hk => storeBytes_byteAt_of_ne hp hrun hne.symm (rks_holds hi hk)

/-- A store outside `DK` leaves its bytes. -/
theorem storeBytes_dk (hp : s.params.wellFormed = true)
    (hrun : b.HoldsRun s.params off bs.length) (hne : b ≠ .dk) {k : Nat} (hk : k < s.params.dkMax) :
    (s.storeBytes off bs).byteAt (Buffer.dk.base + k) = s.byteAt (Buffer.dk.base + k) :=
  storeBytes_byteAt_of_ne hp hrun hne.symm (dk_holds hk)

/-- A store inside a buffer other than `RKS` and `DK` keeps the invariant. -/
theorem Inv.storeBytes (h : Inv s) (hrun : b.HoldsRun s.params off bs.length) (hrks : b ≠ .rks)
    (hdk : b ≠ .dk) : Inv (s.storeBytes off bs) :=
  { h with
    memCanonical := Memory.wf_store _ _ _ h.memCanonical
    memMapped := storeBytes_mapped h.memMapped hrun
    rksTail := fun hv i hlen hi =>
      (storeBytes_rks h.paramsLegal hrun hrks hi).trans (h.rksTail hv i hlen hi)
    dkTail := fun hd k hlen hk =>
      (storeBytes_dk h.paramsLegal hrun hdk hk).trans (h.dkTail hd k hlen hk) }

end Store

/-! ### Results -/

theorem Inv.putRes (h : Inv s) (x : Byte) : Inv (s.putRes (zext32 x)) :=
  { h with
    resByte := by
      have := x.isLt
      simp only [State.putRes_res, zext32, BitVec.toNat_setWidth]
      omega }

theorem ksLen_ksinfoValue (n : KeySize) :
    ((ksinfoValue n).extractLsb' 16 6).toNat = n.len := by cases n <;> decide

theorem ksinfoValue_legal (n : KeySize) :
    ksinfoValue n ∈ ([0x00000000, 0x802c0a04, 0x80340c06, 0x803c0e08] : List Value32) := by
  cases n <;> decide

/-- `KEXP` leaves zeros in `RKS` beyond the schedule (10_state R36, 42_key_schedule R130). -/
theorem publishKexp_tail (s : State) (n : KeySize) {i : Nat} (hlen : n.len ≤ i) (hi : i < 60) :
    (publishKexp s n).wordAt (Buffer.rks.base + 4 * i) = Word.zero := by
  apply Word.ext_bytes
  intro k hk
  have hzero : Word.zero.bytes.getD k 0 = 0 := getD_zeros 4 k
  rw [hzero, State.getD_bytes_wordAt _ _ _ hk, Nat.add_assoc, publishKexp_rks s n (by omega), rksImage,
    List.getD_append_right, getD_zeros]
  rw [length_flatMap_bytes, length_expand]
  omega

/-- `DERIVE` leaves zeros in `DK` beyond the key (10_state R38, 44_key_derivation R157). -/
theorem publishDerive_tail (s : State) {k : Nat} (hlen : s.outBytes ≤ k) (hk : k < s.params.dkMax) :
    (publishDerive s).byteAt (Buffer.dk.base + k) = 0 := by
  rw [publishDerive_dk s (by omega) hk, List.getD_append_right _ _ _ _ (by simpa using hlen), getD_zeros]

theorem Inv.publishKexp (h : Inv s) (n : KeySize) : Inv (publishKexp s n) := by
  have hrun : Buffer.rks.HoldsRun s.params Buffer.rks.base (rksImage n (s.keyBytes n)).length := by
    simp [Buffer.HoldsRun, Buffer.size]
  exact { h with
    memCanonical := Memory.wf_store _ _ _ h.memCanonical
    memMapped := storeBytes_mapped h.memMapped hrun
    ksinfoLegal := ksinfoValue_legal n
    rksTail := fun _ i hlen hi => publishKexp_tail s n (ksLen_ksinfoValue n ▸ hlen) hi
    dkTail := fun hd k hlen hk =>
      (storeBytes_dk h.paramsLegal hrun nofun hk).trans (h.dkTail hd k hlen hk) }

theorem Inv.publishDerive (h : Inv s) (hfits : s.outBytes ≤ s.params.dkMax) :
    Inv (publishDerive s) := by
  have hrun : Buffer.dk.HoldsRun s.params Buffer.dk.base
      (s.derivedKey ++ zeros (s.params.dkMax - s.outBytes)).length := by
    simp [Buffer.HoldsRun, Buffer.size]
    omega
  have hdklen : (BitVec.ofNat 32 s.outBytes).toNat = s.outBytes := by
    have := capacities h.paramsLegal
    rw [BitVec.toNat_ofNat, Nat.mod_eq_of_lt (by omega)]
  exact { h with
    memCanonical := Memory.wf_store _ _ _ h.memCanonical
    memMapped := storeBytes_mapped h.memMapped hrun
    dklenFits := hdklen.trans_le hfits
    rksTail := fun hv i hlen hi =>
      (storeBytes_rks h.paramsLegal hrun nofun hi).trans (h.rksTail hv i hlen hi)
    dkTail := fun _ k hlen hk => publishDerive_tail s (hdklen ▸ hlen) hk }

/-- The results of a checked command keep the invariant. -/
theorem Inv.published (h : Inv s) {i : Instr} (hcheck : check i s = none) :
    Inv (published i s) := by
  cases i with
  | gfmul a b =>
    rw [Machine.published]
    cases coeffOf b with
    | none => exact h
    | some c => exact h.putRes _
  | subb a => exact h.putRes _
  | kexp =>
    obtain ⟨n, hn⟩ := checkKexp_of_check s hcheck
    rw [published_kexp s hn]
    exact h.publishKexp n
  | mixc =>
    refine h.storeBytes (b := .sout) ?_ nofun nofun
    rw [length_flatMap_bytes]
    simp [Buffer.HoldsRun, Buffer.size, mixColumns, State.sinColumns]
  | derive =>
    obtain ⟨-, -, -, -, -, hfits⟩ := checkDerive_ok.mp (checkDerive_of_check s hcheck)
    exact h.publishDerive hfits

/-! ### Reset and steps -/

/-- A state as a reset leaves it, with any legal configuration. -/
theorem inv_reset_with {p : Params} (hp : p.wellFormed = true) (n : Nat) (es : List Event) :
    Inv { State.reset with params := p, epoch := n, schedule := es } where
  paramsLegal := hp
  memCanonical := Memory.wf_nil
  memMapped := nofun
  statusOneHot := List.mem_cons_self
  errRaised := List.mem_cons_self
  errIffError := by simp [State.reset, State.error]
  busyChecked := fun hb => absurd hb (by simp [State.reset, State.busy])
  resByte := by simp [State.reset]
  ksinfoLegal := List.mem_cons_self
  dklenFits := Nat.zero_le _
  rksTail := fun hv => absurd hv (by simp [State.reset, State.ksValid])
  dkTail := fun hd => absurd rfl hd

/-- Every effect of a step keeps the invariant. -/
theorem Inv.effect (h : Inv s) {e : Event} (heff : Effect s e t) : Inv t := by
  cases heff with
  | read a => exact h.answer _
  | answered a v resp => exact h.answer _
  | aborted a v => exact h.abort.answer _
  | accepted a v i _ _ hword hcheck => exact (h.answer _).accept hword hcheck
  | rejected a v e _ _ he => exact (h.answer _).reject v he
  | operand a v reg hidle => exact (h.answer _).putOperand hidle reg v
  | stored a v b hidle hb haccess =>
    have hrks : b ≠ .rks := by rintro rfl; cases haccess
    have hdk : b ≠ .dk := by rintro rfl; cases haccess
    exact (h.answer _).storeBytes (holdsRun_word h.paramsLegal (offset_mod a) hb) hrks hdk
  | skipped => exact h
  | completed i hbusy _ hcheck => exact (h.published hcheck).complete (by simpa using hbusy)
  | reset => exact inv_reset_with h.paramsLegal _ _

/-- A delivery to a state that meets the invariant answers a next state: the Engine's turn finds a
checked command (10_state R45). -/
theorem Inv.deliver_next (h : Inv s) (e : Event) : ∃ t, deliver e s = .next t := by
  cases e with
  | hostRead a => exact ⟨_, rfl⟩
  | hostWrite a v =>
    obtain ⟨t, ht, -⟩ := hostWrite_effect a v s
    exact ⟨t, ht⟩
  | engine =>
    cases hbusy : s.busy with
    | false => exact ⟨_, engineTurn_idle hbusy⟩
    | true =>
      obtain ⟨i, hword, hcheck⟩ := h.busyChecked hbusy
      exact ⟨_, (engineTurn_busy hbusy hword).trans (exec_busy i hbusy hcheck)⟩
  | reset => exact ⟨_, rfl⟩

theorem Inv.step_next (h : Inv s) : ∃ t, step s = .next t := by
  rw [step_eq_deliver]
  exact (h.withSchedule _).deliver_next _

theorem Inv.of_step (h : Inv s) (hstep : step s = .next t) : Inv t :=
  (h.withSchedule _).effect (step_effect hstep)

end Sys2Proof.Machine
end

section
/-! PROOF. The statements of the family 10_state: the invariant, the port's `CTRL`, and what a step can
change. -/

open Sys2Proof Sys2Proof.Machine Sys2Proof.Claims

namespace Sys2Proof.Proofs

/-! ### The invariant -/

/-- Settles O38: every effect of a step keeps the invariant. -/
theorem stepKeepsTheInvariant : Obligations.StepKeepsTheInvariant :=
  fun _ _ h hstep => h.of_step hstep

/-- Settles O39, by induction on the number of steps: the invariant gives each next step and survives it. -/
theorem runsNeverStop : Obligations.RunsNeverStop := by
  intro s h k
  induction k generalizing s with
  | zero => exact ⟨s, run_zero s⟩
  | succ k ih =>
    obtain ⟨t, hstep⟩ := h.step_next
    rw [run_succ k hstep]
    exact ih t (h.of_step hstep)

/-- Settles O37. -/
theorem resetMeetsTheInvariant : Obligations.ResetMeetsTheInvariant :=
  inv_reset_with (p := Params.default) (by decide) 0 []

/-! ### What a step can change -/

/-- No effect of a step writes the configuration (10_state R20). -/
theorem effect_params {s t : State} {e : Event} (h : Effect s e t) : t.params = s.params := by
  cases h <;> simp

/-- Settles O42. -/
theorem configurationNeverChanges : Obligations.ConfigurationNeverChanges :=
  fun s _ hstep => (effect_params (step_effect hstep)).trans (s.withSchedule_params _)

/-- `STATUS` after each effect of a step: kept, or written as 10_state R27 lists. -/
theorem effect_status {s t : State} {e : Event} (h : Effect s e t) : t.status = s.status ∨
    (s.busy = false ∧ (t.status = statusBusy ∨ t.status = statusError) ∧
      ∃ v, e = .hostWrite (portAddr 0x000) v) ∨
    (s.busy = true ∧ t.status = statusDone ∧ e = .engine) ∨
    (s.busy = true ∧ t.status = statusAborted ∧
      ∃ v : Value32, v.getLsbD 0 = true ∧ e = .hostWrite (portAddr 0x00C) v) ∨
    (t.status = 0 ∧ e = .reset) := by
  have haddr {a : PortAddr} {off : Nat} (hoff : PortAddr.offset a = off) : a = portAddr off :=
    hoff ▸ (portAddr_of_offset a).symm
  cases h with
  | read a => exact .inl rfl
  | answered a v resp => exact .inl rfl
  | aborted a v hoff hbit hbusy =>
    refine .inr (.inr (.inr (.inl ⟨hbusy, ?_, v, hbit, by rw [haddr hoff]⟩)))
    rw [State.answer_status, State.abort_status, if_pos hbusy]
  | accepted a v i hoff hidle => exact .inr (.inl ⟨hidle, .inl rfl, v, by rw [haddr hoff]⟩)
  | rejected a v e hoff hidle => exact .inr (.inl ⟨hidle, .inr rfl, v, by rw [haddr hoff]⟩)
  | operand a v reg => exact .inl (by simp)
  | stored a v b => exact .inl rfl
  | skipped => exact .inl rfl
  | completed i hbusy => exact .inr (.inr (.inl ⟨hbusy, rfl, rfl⟩))
  | reset => exact .inr (.inr (.inr (.inr ⟨rfl, rfl⟩)))

/-- The event a step delivers is the head of the schedule, or the Engine's turn when that is empty. -/
theorem headD_engine {es : List Event} {e : Event} (h : es.headD .engine = e) :
    es.head? = some e ∨ (e = .engine ∧ es = []) := by
  cases es with
  | nil => exact .inr ⟨h.symm, rfl⟩
  | cons e' es => exact .inl (congrArg some h)

/-- Settles O43: the only effects that write `STATUS` are those of 10_state R27, and the invariant says
that busy means `STATUS = 1`. -/
theorem statusTransitions : Obligations.StatusTransitions := by
  intro s t hinv hstep hne
  have hbusy : s.busy = true ↔ s.status = 1 := hinv.busy_iff
  have head {e : Event} (he : s.schedule.headD .engine = e) (hne : e ≠ .engine) :
      s.schedule.head? = some e := (headD_engine he).resolve_right fun h => hne h.1
  rcases effect_status (step_effect hstep) with h | ⟨hidle, hst, v, he⟩ | ⟨hb, hst, he⟩ |
    ⟨hb, hst, v, hbit, he⟩ | ⟨hst, he⟩
  · exact absurd h hne
  · refine .inl ⟨fun h => ?_, hst, v, head he nofun⟩
    exact Bool.eq_false_iff.mp hidle (hbusy.mpr h)
  · exact .inr (.inl ⟨hbusy.mp hb, hst, (headD_engine he).imp_right And.right⟩)
  · exact .inr (.inr (.inl ⟨hbusy.mp hb, hst, v, hbit, head he nofun⟩))
  · exact .inr (.inr (.inr ⟨hst, head he nofun⟩))

/-- `Abort()` writes at most `STATUS` (60_exceptions R178). -/
theorem abort_eq (s : State) :
    s.abort = { s with status := if s.busy = true then statusAborted else s.status } := by
  unfold State.abort
  split_ifs <;> rfl

/-- Settles O10: a write to `CTRL` is an abort or nothing, in every state, and a read finds the place
without storage. -/
theorem ctrlAbortsTheBusyCommand : Obligations.CtrlAbortsTheBusyCommand := by
  intro s rest v
  constructor
  · refine (hostWrite_ctrl v { s with schedule := rest }).trans ?_
    by_cases hbit : v.getLsbD 0 = true
    · rw [if_pos hbit, abort_eq]
      simp only [hbit, true_and]
      rfl
    · rw [if_neg hbit, if_neg fun h => hbit h.1]
      rfl
  · have hloc : locate s.params (PortAddr.offset (portAddr 0x00C)) = some (.reg .ctrl) := by
      rw [ctrl_offset, locate_register]
    rw [step_scheduled, deliver, hostRead, State.readReply]
    simp only [hloc]
    rfl

/-- Settles O35. -/
theorem resetClearsTheRegisters : Obligations.ResetClearsTheRegisters := by
  intro s rest
  refine ⟨resetStep { s with schedule := rest }, rfl, ?_⟩
  exact ⟨rfl, rfl, rfl, rfl, rfl, rfl, rfl, rfl, rfl, rfl, rfl, resetStep_byteAt _, rfl, rfl⟩

/-! ### The step of a command -/

/-- Settles O32. -/
theorem stepRunsTheDecodedCommand : Obligations.StepRunsTheDecodedCommand := by
  intro s rest i
  constructor
  · intro hbusy hword
    exact ⟨engineTurn_busy (s := { s with schedule := rest }) hbusy hword,
      engineTurn_busy (s := { s with schedule := [] }) hbusy hword⟩
  · intro hidle v hword
    exact hostWrite_cmd (s := { s with schedule := rest }) hidle hword

/-- A table word of 32 bits decodes as the command word it stands for (30_encoding R70). -/
theorem decodeWord_tableWord {w : Nat} {i : Instr} (h : decodeTableWord 32 w = some i) :
    decodeWord (tableWord 32 w) = .ok i := by
  rw [decodeTableWord, if_pos (Nat.mod_lt _ (by norm_num))] at h
  rw [tableWord]
  cases hd : decodeWord (BitVec.ofNat 32 (w % 2 ^ 32)) with
  | ok j => rw [hd] at h; exact congrArg Except.ok (Option.some.inj h)
  | error e => rw [hd] at h; cases h

/-- Settles O33: the scheduled write finds an idle machine. -/
theorem fetchWordIsIssuedNext : Obligations.FetchWordIsIssuedNext := by
  intro s w i _ hw
  have hidle : State.busy { s with status := if s.busy then 0 else s.status } = false := by
    unfold State.busy
    split_ifs with hbusy
    · exact BitVec.getLsbD_zero
    · exact Bool.eq_false_iff.mpr hbusy
  exact hostWrite_cmd hidle (decodeWord_tableWord hw)

/-- The Engine's turn of a busy machine faults exactly when the word in `CMD` is no command or its check
fails (10_state R45, log 12). -/
theorem engineTurn_fault_iff {s : State} (hbusy : s.busy = true) :
    (∃ f, engineTurn s = .fault f) ↔ issueCode s.cmd s ≠ 0 := by
  cases hword : decodeWord s.cmd with
  | ok i => rw [engineTurn_busy hbusy hword, exec_fault_iff i hbusy, ← issueCode_encode_ne_zero,
      encode_of_decodeWord hword]
  | error e =>
    rw [issueCode_illegal hword]
    refine iff_of_true ⟨.engineOnIllegalWord, ?_⟩ (by decide)
    simp [engineTurn, engineComplete, hbusy, hword]

/-- Settles O40: the check at issue, as numbers, is the check the completion needs. -/
theorem engineStopsOnlyOnUncheckedCommands : Obligations.EngineStopsOnlyOnUncheckedCommands :=
  fun s hbusy => ⟨fun i => (exec_fault_iff i hbusy).trans issueCode_encode_ne_zero.symm,
    fun rest => engineTurn_fault_iff (s := { s with schedule := rest }) hbusy⟩

/-! ### Unused operand bytes -/

/-- Settles O31: `KEXP` and `DERIVE` reach the buffers only through the bytes of the stated lengths. -/
theorem unusedOperandBytesAreIgnored : Obligations.UnusedOperandBytesAreIgnored := by
  intro s s' t t' hbusy hbusy'
  constructor
  · intro h h' hbits hkey
    obtain ⟨hcheck, rfl⟩ := exec_busy_next _ hbusy h
    obtain ⟨-, rfl⟩ := exec_busy_next _ hbusy' h'
    obtain ⟨n, hn⟩ := checkKexp_of_check s hcheck
    have hlen := keySizeOf_eq_some.mp hn
    rw [published_kexp s hn, published_kexp s' (hbits ▸ hn)]
    have hsame : s'.keyBytes n = s.keyBytes n :=
      State.bytesAt_congr fun k hk => hkey k (by omega)
    refine ⟨rfl, fun k hk => ?_⟩
    exact (publishKexp_rks s' n hk).trans (hsame ▸ (publishKexp_rks s n hk).symm)
  · intro h h' hparams hiter hout hpw hsalt hpwBytes hsaltBytes
    obtain ⟨hcheck, rfl⟩ := exec_busy_next _ hbusy h
    obtain ⟨-, rfl⟩ := exec_busy_next _ hbusy' h'
    obtain ⟨-, -, -, -, -, hfits⟩ := checkDerive_ok.mp (checkDerive_of_check s hcheck)
    have hpassword : s'.password = s.password := by
      rw [State.password, hpw]
      exact State.bytesAt_congr hpwBytes
    have hsalts : s'.salt = s.salt := by
      rw [State.salt, hsalt]
      exact State.bytesAt_congr hsaltBytes
    have hkey : s'.derivedKey = s.derivedKey := by
      rw [State.derivedKey, hparams, hpassword, hsalts, hiter, hout, State.derivedKey]
    have hbytes : s'.outBytes = s.outBytes := by rw [State.outBytes, hout, State.outBytes]
    refine ⟨congrArg (BitVec.ofNat 32) hbytes, fun k hk => ?_⟩
    have himage := publishDerive_dk s' (by rw [hbytes, hparams]; exact hfits) (by rwa [hparams])
    rw [hkey, hparams, hbytes] at himage
    exact himage.trans (publishDerive_dk s hfits hk).symm

end Sys2Proof.Proofs
end

section
/-! PROOF. The host port at an offset: which places the map puts where, what a read answers there, and
what a write refused or performed there does. -/

namespace Sys2Proof.Machine

open Sys2Proof.Claims

variable {s : State} {p : Params} {off : Nat} {q : Place}

/-! ### Offsets of the map -/

theorem Reg.offset_mod (r : Reg) : r.offset % 4 = 0 := by cases r <;> rfl

theorem Buffer.base_mod (b : Buffer) : b.base % 4 = 0 := by cases b <;> rfl

theorem Reg.portAddr_offset (r : Reg) : PortAddr.offset (portAddr r.offset) = r.offset :=
  Machine.portAddr_offset r.offset_mod (by have := register_offset_lt r; omega)

/-- The capacities are legal, so a buffer ends inside the window (20_memory R54). -/
theorem holds_portAddr_offset (hp : p.wellFormed = true) {b : Buffer} (hb : b.holds p off = true)
    (halign : off % 4 = 0) : PortAddr.offset (portAddr off) = off := by
  have hcap := capacities hp
  rw [holds_iff] at hb
  refine portAddr_offset halign ?_
  cases b <;> simp only [Buffer.base, Buffer.size] at hb <;> omega

/-- Word `i` of a buffer lies in it (20_memory R56). -/
theorem holds_word {b : Buffer} {i : Nat} (h : 4 * i < b.size p) :
    b.holds p (b.base + 4 * i) = true :=
  holds_iff.mpr ⟨by omega, by omega⟩

/-- The offsets that 20_memory R54 lists as unmapped are those of no register and of no buffer. -/
theorem locate_unmapped (hp : p.wellFormed = true) (h : unmapped p off) : locate p off = none := by
  have hcap := capacities hp
  unfold unmapped at h
  refine locate_none (fun r => ?_) fun b => Bool.eq_false_iff.mpr fun hb => ?_
  · have := register_offset_lt r
    omega
  · rw [holds_iff] at hb
    cases b <;> simp only [Buffer.base, Buffer.size] at hb <;> omega

theorem unmapped_le (h : unmapped p off) : off ≤ 0xFFC := by
  unfold unmapped at h
  omega

/-- The offsets that 20_memory R54 lists as read-only are those of read-only places. -/
theorem locate_mappedReadOnly (hp : p.wellFormed = true) (h : mappedReadOnly p off) :
    ∃ q, locate p off = some q ∧ q.access = .readOnly := by
  have reg {r : Reg} (hr : off = r.offset) (hacc : Place.access (.reg r) = .readOnly) :
      ∃ q, locate p off = some q ∧ q.access = .readOnly :=
    ⟨_, hr ▸ locate_register p r, hacc⟩
  have buf {b : Buffer} (hb : b.base ≤ off ∧ off < b.base + b.size p)
      (hacc : Place.access (.buf b) = .readOnly) :
      ∃ q, locate p off = some q ∧ q.access = .readOnly :=
    ⟨_, locate_buffer hp (holds_iff.mpr hb), hacc⟩
  simp only [mappedReadOnly, List.mem_cons, List.not_mem_nil, or_false] at h
  rcases h with (h | h | h | h | h | h) | ⟨hlow, hhigh⟩ | ⟨hlow, hhigh⟩ | hdk
  · exact reg (r := .status) h rfl
  · exact reg (r := .err) h rfl
  · exact reg (r := .res) h rfl
  · exact reg (r := .ksinfo) h rfl
  · exact reg (r := .hlen) h rfl
  · exact reg (r := .dklen) h rfl
  · exact buf (b := .sout) ⟨hlow, by simp only [Buffer.base, Buffer.size]; omega⟩ rfl
  · exact buf (b := .rks) ⟨hlow, by simp only [Buffer.base, Buffer.size]; omega⟩ rfl
  · exact buf (b := .dk) hdk rfl

/-- The offsets of the writable buffers are those of buffers with access rights RW (20_memory R54). -/
theorem writableBuffer_holds (h : writableBuffer p off) :
    ∃ b : Buffer, b.holds p off = true ∧ Place.access (.buf b) = .readWrite := by
  rcases h with ⟨hlow, hhigh⟩ | hpw | hsalt
  · by_cases hkey : off < 0x060
    · exact ⟨.key, holds_iff.mpr ⟨hlow, hkey⟩, rfl⟩
    · exact ⟨.sin, holds_iff.mpr ⟨not_lt.mp hkey, by simp only [Buffer.base, Buffer.size]; omega⟩, rfl⟩
  · exact ⟨.pw, holds_iff.mpr hpw, rfl⟩
  · exact ⟨.salt, holds_iff.mpr hsalt, rfl⟩

/-- The places whose value a Host reads back: `CMD`, the operand registers and the writable buffers
(20_memory R54). -/
theorem locate_readBack (hp : p.wellFormed = true) (halign : off % 4 = 0)
    (h : off ∈ [0x000, 0x020, 0x024, 0x028, 0x02C, 0x030] ∨ writableBuffer p off) :
    PortAddr.offset (portAddr off) = off ∧
      ∃ q, locate p off = some q ∧ q.access = .readWrite := by
  rcases h with h | h
  · have reg {r : Reg} (hr : off = r.offset) (hacc : Place.access (.reg r) = .readWrite) :
        PortAddr.offset (portAddr off) = off ∧
          ∃ q, locate p off = some q ∧ q.access = .readWrite :=
      hr ▸ ⟨r.portAddr_offset, _, locate_register p r, hacc⟩
    simp only [List.mem_cons, List.not_mem_nil, or_false] at h
    rcases h with h | h | h | h | h | h
    · exact reg (r := .cmd) h rfl
    · exact reg (r := .keybits) h rfl
    · exact reg (r := .pwlen) h rfl
    · exact reg (r := .saltlen) h rfl
    · exact reg (r := .iter) h rfl
    · exact reg (r := .outbits) h rfl
  · obtain ⟨b, hb, hacc⟩ := writableBuffer_holds h
    exact ⟨holds_portAddr_offset hp hb halign, _, locate_buffer hp hb, hacc⟩

/-! ### Reads -/

theorem step_hostRead {a : PortAddr} {rest : List Event} (h : s.schedule = .hostRead a :: rest) :
    step s = .next ((s.withSchedule rest).answer (s.readReply a)) :=
  step_cons h

/-- A read of a mapped offset (20_memory R51). -/
theorem readReply_mapped (hoff : PortAddr.offset (portAddr off) = off)
    (hq : locate s.params off = some q) :
    s.readReply (portAddr off) = .read .okay (s.placeValue off q) := by
  rw [State.readReply, hoff, hq]

/-- A read of an unmapped offset (20_memory R51, R53). -/
theorem readReply_unmapped (hoff : PortAddr.offset (portAddr off) = off)
    (hq : locate s.params off = none) : s.readReply (portAddr off) = .read .error 0 := by
  rw [State.readReply, hoff, hq]

/-! ### Writes -/

/-- Outside `CTRL`, a write is refused where nothing is mapped, where the place is read-only, and while
the Engine is busy (20_memory R52). -/
theorem hostWrite_refused {a : PortAddr} (v : Value32) (hctrl : PortAddr.offset a ≠ 0x00C)
    (h : ∀ q, locate s.params (PortAddr.offset a) = some q → q.access = .readOnly ∨ s.busy = true) :
    hostWrite a v s = .next (s.answer (.write .error)) := by
  rw [hostWrite, Reg.offset, if_neg hctrl]
  cases hq : locate s.params (PortAddr.offset a) with
  | none => rfl
  | some q =>
    by_cases hacc : q.access = .readOnly
    · exact if_pos hacc
    · exact (if_neg hacc).trans (if_pos ((h q hq).resolve_left hacc))

/-- A write of a place with access rights RW performs it on an idle machine (20_memory R52). -/
theorem hostWrite_readWrite {v : Value32} (hoff : PortAddr.offset (portAddr off) = off)
    (hq : locate s.params off = some q) (hacc : q.access = .readWrite) (hidle : s.busy = false) :
    hostWrite (portAddr off) v s = writePlace off v q (s.answer (.write .okay)) := by
  have hctrl : off ≠ 0x00C := by
    rintro rfl
    obtain rfl := Option.some.inj ((locate_register s.params .ctrl).symm.trans hq)
    cases hacc
  have hwrite := hostWrite_performed (a := portAddr off) (v := v) (s := s) (q := q)
  rw [hoff] at hwrite
  exact hwrite hctrl hq (by rw [hacc]; exact nofun) hidle

/-- An issue puts the word in `CMD`, accepted or not, and leaves the configuration and the steps to come
(10_state R25, 30_encoding R78). -/
theorem issue_cmd (v : Value32) (hidle : s.busy = false) : ∃ t, issue v s = .next t ∧
    t.params = s.params ∧ t.schedule = s.schedule ∧ t.cmd = v := by
  rcases issue_idle (v := v) hidle with ⟨i, hi, h⟩ | ⟨-, h⟩
  · rw [encode_of_decodeWord hi] at h
    refine ⟨_, h, ?_⟩
    cases check i s <;> exact ⟨rfl, rfl, rfl⟩
  · exact ⟨_, h, rfl, rfl, rfl⟩

/-- A place with access rights RW holds the value just written to it (10_state R22, R25). -/
theorem writePlace_placeValue (off : Nat) (v : Value32) (hacc : q.access = .readWrite)
    (hidle : s.busy = false) : ∃ t, writePlace off v q s = .next t ∧
      t.params = s.params ∧ t.schedule = s.schedule ∧ t.placeValue off q = v := by
  cases q with
  | reg r =>
    cases r
    case cmd => exact issue_cmd v hidle
    case keybits | pwlen | saltlen | iter | outbits => exact ⟨_, rfl, rfl, rfl, rfl⟩
    all_goals cases hacc
  | buf b =>
    refine ⟨_, rfl, rfl, rfl, ?_⟩
    rw [State.placeValue, State.storeValue_wordAt, lane32_wordOf]

/-! ### Byte order -/

/-- The value of a 32-bit value by its four bytes, the first least significant (20_memory R55). -/
theorem toNat_eq_lanes (v : Value32) : v.toNat = (wordOf v).b0.toNat + (wordOf v).b1.toNat * 2 ^ 8 +
    (wordOf v).b2.toNat * 2 ^ 16 + (wordOf v).b3.toNat * 2 ^ 24 := by
  simp only [wordOf, BitVec.extractLsb'_toNat, Nat.shiftRight_eq_div_pow]
  omega

/-- Lane `k` of the value that carries a Word is its byte `k` (20_memory R55). -/
theorem extractLsb'_lane32 (w : Word) {k : Nat} (hk : k < 4) :
    (lane32 w).extractLsb' (8 * k) 8 = w.bytes.getD k 0 := by
  rw [← getD_bytes_wordOf _ k hk, wordOf_lane32]

end Sys2Proof.Machine
end

section
/-! PROOF. The statements of the family 20_memory: byte order, and the host port's reads and writes. -/

open Sys2Proof Sys2Proof.Machine Sys2Proof.Claims

namespace Sys2Proof.Proofs

/-- Settles O5: byte k of a buffer is lane `k mod 4` of the word that holds it. -/
theorem bytesLieInLittleEndianLanes : Obligations.BytesLieInLittleEndianLanes := by
  refine ⟨fun w => ?_, fun s base k => ?_⟩
  · have h := toNat_eq_lanes (lane32 w)
    rwa [wordOf_lane32] at h
  · have hk : k % 4 < 4 := Nat.mod_lt k (by decide)
    rw [extractLsb'_lane32 _ hk, State.getD_bytes_wordAt _ _ _ hk, Nat.add_assoc, Nat.div_add_mod]

/-- Settles O34. -/
theorem idleMachineStaysAsItIs : Obligations.IdleMachineStaysAsItIs :=
  fun _ hnone hidle => (step_nil hnone).trans (engineTurn_idle hidle)

/-- Settles O6: each offset by the place the map puts there. -/
theorem hostReadAnswersTheMap : Obligations.HostReadAnswersTheMap := by
  intro s rest hp rd word
  have read {off : Nat} {r : Reply} (h : s.readReply (portAddr off) = r) : rd off r :=
    h ▸ step_hostRead (s := { s with schedule := .hostRead (portAddr off) :: rest }) rfl
  have reg (r : Reg) : rd r.offset (.read .okay (s.regValue r)) :=
    read (readReply_mapped r.portAddr_offset (locate_register s.params r))
  have buf (b : Buffer) (i : Nat) (hi : 4 * i < b.size s.params) : word (b.base + 4 * i) := by
    have hb := holds_word hi
    have halign : (b.base + 4 * i) % 4 = 0 := by have := b.base_mod; omega
    exact read (readReply_mapped (holds_portAddr_offset hp hb halign) (locate_buffer hp hb))
  exact ⟨reg .cmd, reg .status, reg .err, reg .ctrl, reg .res, reg .ksinfo, reg .hlen, reg .dklen,
    reg .keybits, reg .pwlen, reg .saltlen, reg .iter, reg .outbits,
    fun i hi => buf .key i (by simp only [Buffer.size]; omega),
    fun c hc => buf .sin c (by simp only [Buffer.size]; omega),
    fun c hc => buf .sout c (by simp only [Buffer.size]; omega),
    fun i hi => buf .rks i (by simp only [Buffer.size]; omega),
    buf .pw, buf .salt, buf .dk,
    fun off halign h => read (readReply_unmapped (portAddr_offset halign (unmapped_le h))
      (locate_unmapped hp h))⟩

/-- Settles O7: in each of the three cases whatever is mapped there is read-only or the Engine is busy. -/
theorem hostWriteRefusalsChangeNothing : Obligations.HostWriteRefusalsChangeNothing := by
  intro s rest off v hp halign hle hctrl h
  have hoff := portAddr_offset halign hle
  refine hostWrite_refused (s := { s with schedule := rest }) v (by rwa [hoff]) ?_
  rw [hoff]
  intro q hq
  rcases h with hnone | hro | hbusy
  · cases (locate_unmapped hp hnone).symm.trans hq
  · obtain ⟨q', hq', hacc⟩ := locate_mappedReadOnly hp hro
    obtain rfl := Option.some.inj (hq'.symm.trans hq)
    exact .inl hacc
  · exact .inr hbusy

/-- Settles O8: a write performed at a writable place is `putOperand` or `storeValue`. -/
theorem hostWriteStoresTheWord : Obligations.HostWriteStoresTheWord := by
  intro s rest v hp hidle wr
  have reg (r : Reg) (hacc : Place.access (.reg r) = .readWrite) :
      step { s with schedule := .hostWrite (portAddr r.offset) v :: rest } =
        writePlace r.offset v (.reg r)
          (State.answer { s with schedule := rest } (.write .okay)) :=
    hostWrite_readWrite (s := { s with schedule := rest }) r.portAddr_offset
      (locate_register s.params r) hacc hidle
  refine ⟨reg .keybits rfl, reg .pwlen rfl, reg .saltlen rfl, reg .iter rfl, reg .outbits rfl, ?_⟩
  intro off halign h
  obtain ⟨b, hb, hacc⟩ := writableBuffer_holds h
  refine ⟨(s.storeValue off v).mem, ?_, s.storeValue_byteAt_in off v, s.storeValue_byteAt_out off v⟩
  exact hostWrite_readWrite (s := { s with schedule := rest }) (holds_portAddr_offset hp hb halign)
    (locate_buffer hp hb) hacc hidle

/-- Settles O11: the write leaves its value in the place, and the read finds the place unchanged. -/
theorem writeThenReadReturnsTheValue : Obligations.WriteThenReadReturnsTheValue := by
  intro s rest off v hp hidle halign h
  obtain ⟨hoff, q, hq, hacc⟩ := locate_readBack hp halign h
  obtain ⟨t, hwrite, hparams, hsched, hvalue⟩ := writePlace_placeValue
    (s := State.answer { s with schedule := .hostRead (portAddr off) :: rest } (.write .okay))
    off v hacc hidle
  have hstep : step { s with
      schedule := .hostWrite (portAddr off) v :: .hostRead (portAddr off) :: rest } = .next t :=
    (hostWrite_readWrite (s := { s with schedule := .hostRead (portAddr off) :: rest })
      hoff hq hacc hidle).trans hwrite
  refine ⟨_, (run_succ 1 hstep).trans (run_succ 0 (step_hostRead hsched)), ?_⟩
  rw [State.answer_reply, readReply_mapped hoff (hparams ▸ hq), hvalue]

/-- Settles O44: of the ways of a Host write, a busy Engine leaves `CTRL` and the refusal. -/
theorem operandsAreFrozenWhileBusy : Obligations.OperandsAreFrozenWhileBusy := by
  intro s e rest _ hbusy hplain
  cases e with
  | hostRead a => exact ⟨_, rfl⟩
  | hostWrite a v =>
    rcases hostWrite_cases a v { s with schedule := rest } with ⟨hctrl, h⟩ | ⟨-, h⟩ | ⟨hidle, -⟩ |
      ⟨hidle, -⟩ | ⟨hidle, -⟩
    · rw [if_neg fun hbit => hplain ⟨hctrl, hbit⟩] at h
      exact ⟨_, h⟩
    · exact ⟨_, h⟩
    all_goals cases hbusy.symm.trans hidle
  | engine => exact hplain.elim
  | reset => exact hplain.elim

end Sys2Proof.Proofs
end

section
/-! PROOF. The decoder against the rows of the opcode map (30_encoding R75, R76), and the issue of any word
against `issueCode` (30_encoding R78). -/

namespace Sys2Proof

variable {v : Value32}

/-- A word is a command exactly when it is that command's encoding (30_encoding R75, R79). -/
theorem decodeWord_ok_iff_encode {i : Instr} : decodeWord v = .ok i ↔ encode i = v :=
  ⟨encode_of_decodeWord, fun h => h ▸ decodeWord_encode i⟩

/-- The row of `GFMUL` (30_encoding R75). -/
theorem decodeWord_gfmul_iff {a b : Byte} : decodeWord v = .ok (.gfmul a b) ↔
    v &&& 0xFFFF0000 = 0x01000000 ∧ a = fieldA v ∧ b = fieldB v := by
  rw [decodeWord_ok, gfmulMask_iff]
  simp [and_assoc]

/-- The row of `SUBB` (30_encoding R75). -/
theorem decodeWord_subb_iff {a : Byte} : decodeWord v = .ok (.subb a) ↔
    v &&& 0xFFFFFF00 = 0x02000000 ∧ a = fieldA v := by
  rw [decodeWord_ok, subbMask_iff]
  simp [and_assoc]

/-- A row whose mask keeps every bit has one word, the encoding of its command (30_encoding R75). -/
theorem decodeWord_fullMask_iff {i : Instr} {pattern : Value32} (h : encode i = pattern) :
    decodeWord v = .ok i ↔ v &&& 0xFFFFFFFF = pattern := by
  have hmask : v &&& 0xFFFFFFFF = v := BitVec.and_allOnes
  rw [decodeWord_ok_iff_encode, hmask, h, eq_comm]

theorem decodeWord_kexp_iff : decodeWord v = .ok .kexp ↔ v &&& 0xFFFFFFFF = 0x03000000 :=
  decodeWord_fullMask_iff (by decide)

theorem decodeWord_mixc_iff : decodeWord v = .ok .mixc ↔ v &&& 0xFFFFFFFF = 0x04000000 :=
  decodeWord_fullMask_iff (by decide)

theorem decodeWord_derive_iff : decodeWord v = .ok .derive ↔ v &&& 0xFFFFFFFF = 0x05000000 :=
  decodeWord_fullMask_iff (by decide)

theorem OpRow.accepts_iff {r : OpRow} : r.accepts v = true ↔ v &&& r.mask = r.pattern := beq_iff_eq

/-- The row of a command accepts its word. -/
theorem row_accepts_of_decodeWord {i : Instr} (h : decodeWord v = .ok i) : i.row.accepts v = true := by
  rw [OpRow.accepts_iff]
  cases i with
  | gfmul a b => exact (decodeWord_gfmul_iff.mp h).1
  | subb a => exact (decodeWord_subb_iff.mp h).1
  | kexp => exact decodeWord_kexp_iff.mp h
  | mixc => exact decodeWord_mixc_iff.mp h
  | derive => exact decodeWord_derive_iff.mp h

/-- A word that a command's row accepts decodes to a command of that row. -/
theorem decodeWord_of_row_accepts {i : Instr} (h : i.row.accepts v = true) :
    ∃ j, decodeWord v = .ok j ∧ j.row = i.row := by
  rw [OpRow.accepts_iff] at h
  cases i with
  | gfmul a b => exact ⟨_, decodeWord_gfmul_iff.mpr ⟨h, rfl, rfl⟩, rfl⟩
  | subb a => exact ⟨_, decodeWord_subb_iff.mpr ⟨h, rfl⟩, rfl⟩
  | kexp => exact ⟨_, decodeWord_kexp_iff.mpr h, rfl⟩
  | mixc => exact ⟨_, decodeWord_mixc_iff.mpr h, rfl⟩
  | derive => exact ⟨_, decodeWord_derive_iff.mpr h, rfl⟩

/-- The rows of the opcode map are the rows of the commands. -/
theorem mem_opcodeMap_iff {r : OpRow} : r ∈ opcodeMap ↔ ∃ i : Instr, i.row = r := by
  constructor
  · intro h
    simp only [opcodeMap, List.mem_cons, List.not_mem_nil, or_false] at h
    rcases h with h | h | h | h | h <;> exact ⟨_, h.symm⟩
  · rintro ⟨i, rfl⟩
    cases i <;> simp [opcodeMap, Instr.row]

/-- A row of the opcode map accepts a word exactly when the word decodes to a command of the row. -/
theorem accepts_iff_decodeWord {r : OpRow} (hr : r ∈ opcodeMap) :
    r.accepts v = true ↔ ∃ i, decodeWord v = .ok i ∧ i.row = r := by
  obtain ⟨i, rfl⟩ := mem_opcodeMap_iff.mp hr
  constructor
  · exact decodeWord_of_row_accepts
  · rintro ⟨j, hj, hrow⟩
    exact hrow ▸ row_accepts_of_decodeWord hj

/-- The legal words are the words that decode (30_encoding R76). -/
theorem legalWord_iff : legalWord v = true ↔ ∃ i, decodeWord v = .ok i := by
  rw [legalWord, List.any_eq_true]
  constructor
  · rintro ⟨r, hr, hacc⟩
    obtain ⟨i, hi, -⟩ := (accepts_iff_decodeWord hr).mp hacc
    exact ⟨i, hi⟩
  · rintro ⟨i, hi⟩
    exact ⟨i.row, mem_opcodeMap_iff.mpr ⟨i, rfl⟩, row_accepts_of_decodeWord hi⟩

/-- The rows of the opcode map are disjoint, since the decoder answers one thing (30_encoding R75). -/
theorem opcodeMap_disjoint {r r' : OpRow} (hr : r ∈ opcodeMap) (hr' : r' ∈ opcodeMap)
    (h : r.accepts v = true) (h' : r'.accepts v = true) : r = r' := by
  obtain ⟨i, hi, rfl⟩ := (accepts_iff_decodeWord hr).mp h
  obtain ⟨j, hj, rfl⟩ := (accepts_iff_decodeWord hr').mp h'
  rw [Except.ok.inj (hi.symm.trans hj)]

end Sys2Proof

namespace Sys2Proof.Machine

open Sys2Proof.Claims

variable {s : State}

/-! ### The issue of any word -/

/-- `exec` of an idle machine with the check as a number: `CMD`, `ERR` and `STATUS` are written and
nothing else (30_encoding R78, 60_exceptions R173). -/
theorem exec_idle_issueCode (i : Instr) (hidle : s.busy = false) : exec i s = .next { s with
    cmd := encode i
    err := issueCode (encode i) s
    status := if issueCode (encode i) s = 0 then statusBusy else statusError } := by
  rw [exec_idle i hidle, issueCode_encode]
  cases check i s with
  | none => rfl
  | some e =>
    rw [Option.elim_some, if_neg e.code_ne_zero]
    rfl

/-- The issue of any word, a command or not (30_encoding R76, R78). -/
theorem issue_issueCode (v : Value32) (hidle : s.busy = false) : issue v s = .next { s with
    cmd := v
    err := issueCode v s
    status := if issueCode v s = 0 then statusBusy else statusError } := by
  unfold issue
  cases hword : decodeWord v with
  | ok i =>
    obtain rfl := encode_of_decodeWord hword
    exact exec_idle_issueCode i hidle
  | error e =>
    rw [issueCode_illegal hword]
    rfl

/-! ### No refusal -/

theorem engineTurn_not_refused (r : Refusal) : engineTurn s ≠ .refused r := by
  cases hbusy : s.busy with
  | false => rw [engineTurn_idle hbusy]; exact nofun
  | true =>
    cases hword : decodeWord s.cmd with
    | ok i => rw [engineTurn_busy hbusy hword]; exact exec_not_refused i r
    | error e => simp [engineTurn, engineComplete, hbusy, hword]

theorem deliver_not_refused (e : Event) (r : Refusal) : deliver e s ≠ .refused r := by
  cases e with
  | hostRead a => exact nofun
  | hostWrite a v =>
    obtain ⟨t, ht, -⟩ := hostWrite_effect a v s
    rw [deliver, ht]
    exact nofun
  | engine => exact engineTurn_not_refused r
  | reset => exact nofun

end Sys2Proof.Machine
end

section
/-! PROOF. The statements of the family 30_encoding: the decoder and the encoder, the issue, and that no
step is refused. -/

open Sys2Proof Sys2Proof.Machine Sys2Proof.Claims

namespace Sys2Proof.Proofs

/-- Settles O1: the encoder's fields are those the decoder reads, and a word is its fields. -/
theorem decodeAndEncodeAgree : Obligations.DecodeAndEncodeAgree :=
  ⟨decodeWord_encode, fun _ _ => encode_of_decodeWord⟩

/-- Settles O2, row by row. -/
theorem decoderFollowsOpcodeMap : Obligations.DecoderFollowsOpcodeMap :=
  fun _ => ⟨fun _ _ => decodeWord_gfmul_iff, fun _ => decodeWord_subb_iff, decodeWord_kexp_iff,
    decodeWord_mixc_iff, decodeWord_derive_iff⟩

/-- Settles O3: a row accepts exactly the words of its commands, so one decoding means one row. -/
theorem everyOtherWordIsIllegal : Obligations.EveryOtherWordIsIllegal :=
  fun _ => ⟨legalWord_iff.symm, fun _ hr _ hr' => opcodeMap_disjoint hr hr'⟩

/-- Settles O12: the command's own check decides, and `issueCode` of its word is that check. -/
theorem everyCommandIssues : Obligations.EveryCommandIssues :=
  fun i _ hidle => exec_idle_issueCode i hidle

/-- Settles O9: a write to `CMD` of an idle machine is the issue of the word. -/
theorem issueFollowsCheck : Obligations.IssueFollowsCheck := by
  intro s rest v hidle
  have hwrite : hostWrite (portAddr 0x000) v { s with schedule := rest } =
      issue v (State.answer { s with schedule := rest } (.write .okay)) :=
    hostWrite_readWrite (s := { s with schedule := rest }) cmd_offset
      (locate_register s.params .cmd) rfl hidle
  exact hwrite.trans (issue_issueCode v hidle)

/-- Settles O41: of the four kinds of step only the Engine's turn could stop, and it stops by a fault. -/
theorem noStepIsRefused : Obligations.NoStepIsRefused := by
  intro s r
  rw [step_eq_deliver]
  exact deliver_not_refused _ r

end Sys2Proof.Proofs
end

section
/-! PROOF. The multiplier of the GaloisField: doubling as a linear bijection of the Bytes, the formulas on
numbers, and the product in the field. -/

namespace Sys2Proof.Machine

open Sys2Proof.Claims

/-! ### Doubling -/

/-- The reduction constant is XORed in when the shift pushes a bit out (40_galois_field R102). -/
theorem xtime_eq_msb (a : Byte) : xtime a = (a <<< 1) ^^^ (if a.msb then 0x1b else 0) := by
  have hmask : a &&& 0x80 = if a.msb then 0x80 else 0 := by
    rw [BitVec.msb_eq_getLsbD_last, show (0x80 : Byte) = BitVec.twoPow 8 7 by decide, BitVec.and_twoPow]
    rfl
  rw [xtime, hmask]
  cases a.msb <;> rfl

/-- Doubling is linear over XOR: the shift and the bit pushed out both are (40_galois_field R105). -/
theorem xtime_xor (a a' : Byte) : xtime (a ^^^ a') = xtime a ^^^ xtime a' := by
  have hconst : ∀ p q : Bool, (if (p ^^ q) then 0x1b else 0 : Byte) =
      (if p then 0x1b else 0) ^^^ (if q then 0x1b else 0) := by decide
  simp only [xtime_eq_msb, BitVec.msb_xor, hconst, BitVec.shiftLeft_xor_distrib]
  ac_rfl

/-- Bit 0 of the double is the bit the shift pushed out. -/
theorem getLsbD_zero_xtime (a : Byte) : (xtime a).getLsbD 0 = a.msb := by
  rw [xtime_eq_msb]
  cases a.msb <;> simp

/-- The double determines the bit pushed out, that bit the shifted byte, and both together the byte. -/
theorem xtime_injective : Function.Injective xtime := by
  intro a a' h
  have hmsb : a.msb = a'.msb := by rw [← getLsbD_zero_xtime, h, getLsbD_zero_xtime]
  have hshift : a <<< 1 = a' <<< 1 := by
    rw [xtime_eq_msb, xtime_eq_msb, hmsb] at h
    exact (BitVec.xor_left_inj _).mp h
  refine BitVec.eq_of_getLsbD_eq fun i hi => ?_
  obtain hlow | rfl : i + 1 < 8 ∨ i = 7 := by omega
  · simpa [hlow, hi] using congrArg (·.getLsbD (i + 1)) hshift
  · simpa [BitVec.msb_eq_getLsbD_last] using hmsb

theorem xtime_bijective : Function.Bijective xtime := xtime_injective.bijective_of_finite

/-- `gmul` is linear over XOR, coefficient by coefficient (40_galois_field R105). -/
theorem gmul_xor (a a' : Byte) (c : Coeff) : gmul (a ^^^ a') c = gmul a c ^^^ gmul a' c := by
  cases c with
  | one => rfl
  | two => exact xtime_xor a a'
  | three =>
    simp only [gmul, xtime_xor]
    ac_rfl

/-! ### The formulas on numbers -/

/-- The formula of 40_galois_field R102 on numbers. -/
theorem toNat_xtime (a : Byte) : (xtime a).toNat =
    ((a.toNat <<< 1) &&& 0xff) ^^^ (if a.toNat &&& 0x80 ≠ 0 then 0x1b else 0x00) := by
  have hshift : (a <<< 1).toNat = (a.toNat <<< 1) &&& 0xff := by
    rw [BitVec.toNat_shiftLeft, ← Nat.and_two_pow_sub_one_eq_mod]
  have hbit : a &&& 0x80 ≠ 0 ↔ a.toNat &&& 0x80 ≠ 0 := by
    rw [ne_eq, ← BitVec.toNat_inj, BitVec.toNat_and]
    rfl
  rw [xtime, BitVec.toNat_xor, hshift, apply_ite BitVec.toNat]
  simp only [hbit]
  rfl

/-- The Bytes that name a coefficient, and the coefficient each names (40_galois_field R101). -/
theorem coeffOf_eq_some {b : Byte} {c : Coeff} : coeffOf b = some c ↔
    (b = 1 ∧ c = .one) ∨ (b = 2 ∧ c = .two) ∨ (b = 3 ∧ c = .three) := by
  unfold coeffOf
  split_ifs <;> simp_all [eq_comm]

/-- The multiplier on an allowed coefficient byte is the formula of 40_galois_field R101. -/
theorem toNat_gmul (a : Byte) {b : Byte} {c : Coeff} (hc : coeffOf b = some c) :
    (gmul a c).toNat = gmulNat a.toNat b.toNat := by
  obtain ⟨rfl, rfl⟩ | ⟨rfl, rfl⟩ | ⟨rfl, rfl⟩ := coeffOf_eq_some.mp hc
  · rfl
  · exact toNat_xtime a
  · rw [gmul, BitVec.toNat_xor, toNat_xtime]
    rfl

/-- A busy machine completes `GFMUL` when its coefficient is allowed (40_galois_field R104). -/
theorem exec_gfmul_busy {s : State} (a : Byte) {b : Byte} {c : Coeff} (hbusy : s.busy = true)
    (hc : coeffOf b = some c) : exec (.gfmul a b) s = .next (s.putRes (zext32 (gmul a c))).complete :=
  command_busy_ok hbusy (checkGfmul_ok.mpr hc)

/-! ### The product in the field

Of the coefficients only bits 0 and 1 can be set, so the fold of `gfull` computes to at most two terms
XORed onto 0 (40_galois_field R106). -/

theorem gfull_one (a : Byte) : gfull a 1 = a := BitVec.zero_xor

theorem gfull_two (a : Byte) : gfull a 2 = xtime a := BitVec.zero_xor

theorem gfull_three (a : Byte) : gfull a 3 = a ^^^ xtime a :=
  congrArg (· ^^^ xtime a) BitVec.zero_xor

end Sys2Proof.Machine
end

section
/-! PROOF. The statements of the family 40_galois_field: the laws of the multiplier and what `GFMUL`
completes with. -/

open Sys2Proof Sys2Proof.Machine Sys2Proof.Claims

namespace Sys2Proof.Proofs

/-- Settles O13: the published byte, zero-extended, is the number of R101's formula. -/
theorem gfmulCompletes : Obligations.GfmulCompletes := by
  intro a b s hbusy hb
  obtain ⟨c, hc⟩ : ∃ c, coeffOf b = some c := by
    rcases hb with rfl | rfl | rfl <;> exact ⟨_, rfl⟩
  rw [exec_gfmul_busy a hbusy hc, ← toNat_gmul a hc, BitVec.ofNat_toNat]
  rfl

/-- Settles O14: the first two laws are the definition, the other two those of doubling. -/
theorem multiplierLaws : Obligations.MultiplierLaws :=
  ⟨fun _ => rfl, fun _ => rfl, gmul_xor, xtime_bijective⟩

/-- Settles O15: the set bits of 1, 2 and 3 are bits 0 and 1. -/
theorem multiplierIsFieldProduct : Obligations.MultiplierIsFieldProduct :=
  fun a => ⟨(gfull_one a).symm, (gfull_two a).symm, by rw [gfull_three, gmul, BitVec.xor_comm]⟩

end Sys2Proof.Proofs
end

section
/-! PROOF. The S-box against its construction in the field (41_substitution_box R111): multiplication as a
linear map that commutes with doubling, cancellation of an invertible factor, and the affine map. -/

namespace Sys2Proof.Machine

open Sys2Proof.Claims

/-! ### The product as a linear map of its first factor -/

/-- Each term of the product is `xtime^k(a)`, and so is its image under a linear map that commutes with
doubling. -/
theorem map_gfull {f : Byte → Byte} (hxor : ∀ a a', f (a ^^^ a') = f a ^^^ f a')
    (hxtime : Function.Commute f xtime) (a b : Byte) : f (gfull a b) = gfull (f a) b := by
  have hzero : f 0 = 0 := by simpa using hxor 0 0
  rw [gfull, ← List.foldl_hom f (g₂ := fun acc k => if b.getLsbD k then acc ^^^ xtime^[k] (f a) else acc),
    hzero, gfull]
  intro acc k
  rw [apply_ite f, hxor, (hxtime.iterate_right k).eq]

theorem gfull_xor (a a' b : Byte) : gfull (a ^^^ a') b = gfull a b ^^^ gfull a' b := by
  rw [gfull, gfull, gfull, ← List.foldl_hom₂ (List.range 8) (· ^^^ ·), BitVec.xor_self]
  · rfl
  · intro acc acc' k
    rw [Function.Semiconj₂.iterate xtime_xor k a a']
    split
    · ac_rfl
    · rfl

/-- Multiplications by two bytes commute: both are sums of powers of doubling. -/
theorem gfull_right_comm (a b c : Byte) : gfull (gfull a b) c = gfull (gfull a c) b :=
  map_gfull (f := (gfull · c)) (fun a a' => gfull_xor a a' c)
    (fun a => (map_gfull xtime_xor (.refl xtime) a c).symm) a b

/-- The bits of a byte are the powers of doubling of 1. -/
theorem one_gfull : ∀ b, gfull 1 b = b := by decide

theorem gfull_zero_ne_one (a : Byte) : gfull a 0 ≠ 1 := show (0 : Byte) ≠ 1 by decide

/-- Multiplication by an invertible byte is onto, as every `b` is `1 * b = (a * c) * b = (a * b) * c`, and
so one to one. -/
theorem gfull_injective_of_eq_one {a c : Byte} (h : gfull a c = 1) : Function.Injective (gfull · c) :=
  Finite.injective_iff_surjective.mpr fun b =>
    ⟨gfull a b, show gfull (gfull a b) c = b by rw [gfull_right_comm, h, one_gfull]⟩

/-! ### The construction of the table -/

/-- The affine map of 41_substitution_box R111. -/
def affine (y : Byte) : Byte :=
  y ^^^ y.rotateLeft 1 ^^^ y.rotateLeft 2 ^^^ y.rotateLeft 3 ^^^ y.rotateLeft 4 ^^^ 0x63

/-- The inverse of `affine`. -/
def affineInverse (b : Byte) : Byte := b.rotateLeft 1 ^^^ b.rotateLeft 3 ^^^ b.rotateLeft 6 ^^^ 0x05

theorem affine_affineInverse : ∀ b, affine (affineInverse b) = b := by decide

/-- The check of 41_substitution_box R111, entry by entry: without the affine map, the entry for `x` is the
inverse of `x` in the field, 0 for 0. -/
theorem gfull_affineInverse_sbox : ∀ x,
    gfull x (affineInverse (sbox x)) = 1 ∨ (x = 0 ∧ affineInverse (sbox x) = 0) := by decide

/-- An entry determines the inverse of its input, 0 only that of 0, and an inverse determines its byte. -/
theorem sbox_injective : Function.Injective sbox := by
  intro x x' h
  have hx := gfull_affineInverse_sbox x
  have hx' := gfull_affineInverse_sbox x'
  rw [← h] at hx'
  obtain hone | ⟨rfl, hzero⟩ := hx <;> obtain hone' | ⟨rfl, hzero'⟩ := hx'
  · exact gfull_injective_of_eq_one hone (hone.trans hone'.symm)
  · exact absurd (hzero' ▸ hone) (gfull_zero_ne_one x)
  · exact absurd (hzero ▸ hone') (gfull_zero_ne_one x')
  · rfl

end Sys2Proof.Machine
end

section
/-! PROOF. The statements of the family 41_substitution_box: the S-box and what `SUBB` completes with. -/

open Sys2Proof Sys2Proof.Machine Sys2Proof.Claims

namespace Sys2Proof.Proofs

/-- Settles O16: `SUBB` has no check, and the entry is published zero-extended. -/
theorem subbCompletes : Obligations.SubbCompletes := by
  intro a s hbusy
  rw [exec_busy (.subb a) hbusy rfl, BitVec.ofNat_toNat]
  rfl

/-- Settles O17: a one-to-one map of the finitely many Bytes is onto. -/
theorem sboxIsPermutation : Obligations.SboxIsPermutation := sbox_injective.bijective_of_finite

/-- Settles O18: the inverse is the entry without the affine map. -/
theorem sboxMatchesFieldConstruction : Obligations.SboxMatchesFieldConstruction :=
  fun x => ⟨affineInverse (sbox x), gfull_affineInverse_sbox x, (affine_affineInverse (sbox x)).symm⟩

end Sys2Proof.Proofs
end

section
/-! PROOF. The key expansion read off its result, and `RKS` after `KEXP`. -/

namespace Sys2Proof.Machine

open Sys2Proof.Claims

/-! ### The words of the expansion -/

/-- The first `Nk` Words are the key in 4-byte groups (42_key_schedule R121). -/
theorem getD_keyBlock {nk k : Nat} (key : List Byte) (hk : k < nk) :
    (keyBlock nk key).getD k Word.zero = ⟨key.getD (4 * k) 0, key.getD (4 * k + 1) 0,
      key.getD (4 * k + 2) 0, key.getD (4 * k + 3) 0⟩ := by
  simp [keyBlock, hk]

/-- The first `Nk` Words of the expansion are the KeyBlock (42_key_schedule R127 (b)). -/
theorem getD_expand_key (n : KeySize) (key : List Byte) {k : Nat} (hk : k < n.nk) :
    (expand n key).getD k Word.zero = ⟨key.getD (4 * k) 0, key.getD (4 * k + 1) 0,
      key.getD (4 * k + 2) 0, key.getD (4 * k + 3) 0⟩ := by
  rw [expand, extendSchedule_prefix _ _ _ _ (by rwa [length_keyBlock]), getD_keyBlock key hk]

/-- Every later Word is the Word `Nk` back XORed with `temp` of the previous one (42_key_schedule
R126). -/
theorem getD_expand_next (n : KeySize) (key : List Byte) {i : Nat} (hlow : n.nk ≤ i)
    (hhigh : i < n.len) :
    (expand n key).getD i Word.zero = xorWord ((expand n key).getD (i - n.nk) Word.zero)
      (scheduleTemp n.nk i ((expand n key).getD (i - 1) Word.zero)) :=
  extendSchedule_next n.nk_pos _ _ i (length_keyBlock _ _).ge (by rwa [length_keyBlock])
    (by rw [length_keyBlock]; omega)

/-! ### `temp` of the loop body, by its three branches (42_key_schedule R126) -/

section Temp

variable {nk i : Nat} (prev : Word)

theorem scheduleTemp_of_mod_eq_zero (h : i % nk = 0) :
    scheduleTemp nk i prev = xorWord (subWord (rotWord prev)) (rcon (i / nk)) := if_pos h

theorem scheduleTemp_of_mod_eq_four (h : i % nk ≠ 0) (hmid : nk > 6 ∧ i % nk = 4) :
    scheduleTemp nk i prev = subWord prev := by
  rw [scheduleTemp, if_neg h, if_pos hmid]

theorem scheduleTemp_of_other (h : i % nk ≠ 0) (hmid : ¬(nk > 6 ∧ i % nk = 4)) :
    scheduleTemp nk i prev = prev := by
  rw [scheduleTemp, if_neg h, if_neg hmid]

end Temp

/-! ### The round constants -/

/-- The table from index 1 on is `0x01` doubled index less one times (42_key_schedule R124). -/
theorem rcon_eq_iterate_xtime : ∀ j ≤ 10, 1 ≤ j → rcon j = ⟨xtime^[j - 1] 0x01, 0, 0, 0⟩ := by
  decide

/-- The loop reads the table inside its eleven entries (42_key_schedule R120). -/
theorem KeySize.div_nk_le {n : KeySize} {i : Nat} (h : i < n.len) : i / n.nk ≤ 10 := by
  cases n <;> simp only [KeySize.len, KeySize.nr, KeySize.nk] at h ⊢ <;> omega

/-! ### `KEXP` -/

theorem KeySize.nk_le_eight (n : KeySize) : n.nk ≤ 8 := by cases n <;> decide

theorem ksinfoValue_eq_ksinfoOf (n : KeySize) : ksinfoValue n = ksinfoOf n := by
  cases n <;> decide

/-- The expansion of the key in `KEY` starts with the words of `KEY` (20_memory R56, 42_key_schedule
R127 (b)). -/
theorem getD_expand_keyBytes (s : State) (n : KeySize) {i : Nat} (hi : i < n.nk) :
    (expand n (s.keyBytes n)).getD i Word.zero = s.wordAt (Buffer.key.base + 4 * i) := by
  have hbyte : ∀ k < 4, (s.keyBytes n).getD (4 * i + k) 0 = s.byteAt (Buffer.key.base + 4 * i + k) :=
    fun k hk => by rw [State.keyBytes, State.getD_bytesAt _ _ _ _ (by omega), Nat.add_assoc]
  have hfirst : (s.keyBytes n).getD (4 * i) 0 = s.byteAt (Buffer.key.base + 4 * i) :=
    hbyte 0 (by omega)
  rw [getD_expand_key n _ hi, hfirst, hbyte 1 (by omega), hbyte 2 (by omega), hbyte 3 (by omega),
    State.wordAt]

/-- `RKS` holds the expansion (42_key_schedule R130). -/
theorem publishKexp_word (s : State) (n : KeySize) {i : Nat} (hi : i < n.len) :
    (publishKexp s n).wordAt (Buffer.rks.base + 4 * i) =
      (expand n (s.keyBytes n)).getD i Word.zero := by
  rw [publishKexp, State.putKsinfo_wordAt, rksImage,
    State.storeBytes_wordAt _ _ _ _ _ (by rwa [length_expand])]

/-- `KEXP` writes no buffer byte outside `RKS` (42_key_schedule R130). -/
theorem publishKexp_byteAt_out (s : State) (n : KeySize) {x : Nat}
    (h : ¬(Buffer.rks.base ≤ x ∧ x < Buffer.rks.base + 240)) :
    (publishKexp s n).byteAt x = s.byteAt x := by
  rw [publishKexp, State.putKsinfo_byteAt,
    State.storeBytes_byteAt_out _ _ _ _ (by rwa [length_rksImage])]

/-- `KEXP` leaves the words of `KEY`. -/
theorem publishKexp_keyWord (s : State) (n : KeySize) {i : Nat} (hi : i < 8) :
    (publishKexp s n).wordAt (Buffer.key.base + 4 * i) = s.wordAt (Buffer.key.base + 4 * i) :=
  State.wordAt_congr fun k hk => publishKexp_byteAt_out s n (by
    simp only [Buffer.base]
    omega)

/-- A busy machine completes `KEXP` when `KEYBITS` is a key length (42_key_schedule R130). -/
theorem exec_kexp_busy {s : State} {n : KeySize} (hbusy : s.busy = true)
    (hn : keySizeOf s.keybits = some n) : exec .kexp s = .next (publishKexp s n).complete :=
  command_busy_ok hbusy (checkKexp_ok.mpr hn)

end Sys2Proof.Machine
end

section
/-! PROOF. The statements of the family 42_key_schedule: the key expansion and what `KEXP` completes
with. -/

open Sys2Proof Sys2Proof.Machine Sys2Proof.Claims

namespace Sys2Proof.Proofs

/-- Settles O19: the three clauses for later Words are the three branches of `temp`. -/
theorem expandFollowsTheRecurrence : Obligations.ExpandFollowsTheRecurrence := by
  intro n key _ w
  have hnext : ∀ i, n.nk ≤ i → i < n.len →
      w i = xorWord (w (i - n.nk)) (scheduleTemp n.nk i (w (i - 1))) :=
    fun i hlow hhigh => getD_expand_next n key hlow hhigh
  refine ⟨length_expand n key, fun k hk => getD_expand_key n key hk, ?_, ?_, ?_⟩
  · intro i hlow hhigh hmod
    have hconst := rcon_eq_iterate_xtime (i / n.nk) (KeySize.div_nk_le hhigh)
      (Nat.div_pos hlow n.nk_pos)
    rw [hnext i hlow hhigh, scheduleTemp_of_mod_eq_zero _ hmod, hconst]
    simp [xorWord, subWord, rotWord]
  · intro i hlow hhigh hmod hnk hmid
    rw [hnext i hlow hhigh, scheduleTemp_of_mod_eq_four _ hmod ⟨hnk, hmid⟩]
    rfl
  · intro i hlow hhigh hmod hmid
    rw [hnext i hlow hhigh, scheduleTemp_of_other _ hmod hmid]
    rfl

/-- Settles O20: the memory is the one that holds the image of the schedule in `RKS`. -/
theorem kexpCompletes : Obligations.KexpCompletes := by
  intro n s hbusy hbits key
  have hkey : key = s.keyBytes n := by
    rw [State.keyBytes, State.bytesAt, show 4 * n.nk = s.keybits.toNat / 8 by omega]
    rfl
  rw [hkey]
  refine ⟨(publishKexp s n).mem, ?_, fun i hi => publishKexp_word s n hi,
    fun i hlow hhigh => publishKexp_tail s n hlow hhigh, fun x hx => publishKexp_byteAt_out s n hx⟩
  rw [exec_kexp_busy hbusy (keySizeOf_eq_some.mpr hbits), ← ksinfoValue_eq_ksinfoOf]
  rfl

/-- Settles O21: the first Words of the expansion are the words of `KEY`, which the completion leaves. -/
theorem scheduleStartsWithTheKey : Obligations.ScheduleStartsWithTheKey := by
  intro s t i hbusy hexec hi
  obtain ⟨hcheck, rfl⟩ := exec_busy_next _ hbusy hexec
  obtain ⟨n, hn⟩ := checkKexp_of_check s hcheck
  have hlen := keySizeOf_eq_some.mp hn
  have hnk := n.nk_le_eight
  have hle := n.nk_le_len
  rw [published_kexp s hn]
  calc (publishKexp s n).wordAt (Buffer.rks.base + 4 * i)
      = (expand n (s.keyBytes n)).getD i Word.zero := publishKexp_word s n (by omega)
    _ = s.wordAt (Buffer.key.base + 4 * i) := getD_expand_keyBytes s n (by omega)
    _ = (publishKexp s n).wordAt (Buffer.key.base + 4 * i) :=
        (publishKexp_keyWord s n (by omega)).symm

end Sys2Proof.Proofs
end

section
/-! PROOF. The datapath of MixColumns over the product in the field, and `SOUT` after `MIXC`. -/

namespace Sys2Proof.Machine

open Sys2Proof.Claims

/-! ### The datapath -/

/-- The datapath with every coefficient, 1 included, as a factor in the field (43_mix_columns R140). -/
theorem mixColumn_eq_gfull (w : Word) : mixColumn w =
    ⟨gfull w.b0 2 ^^^ gfull w.b1 3 ^^^ gfull w.b2 1 ^^^ gfull w.b3 1,
     gfull w.b0 1 ^^^ gfull w.b1 2 ^^^ gfull w.b2 3 ^^^ gfull w.b3 1,
     gfull w.b0 1 ^^^ gfull w.b1 1 ^^^ gfull w.b2 2 ^^^ gfull w.b3 3,
     gfull w.b0 3 ^^^ gfull w.b1 1 ^^^ gfull w.b2 1 ^^^ gfull w.b3 2⟩ := by
  have htwo : ∀ a, gmul a .two = gfull a 2 := fun a =>
    have ⟨_, h, _⟩ := Proofs.multiplierIsFieldProduct a; h
  have hthree : ∀ a, gmul a .three = gfull a 3 := fun a =>
    have ⟨_, _, h⟩ := Proofs.multiplierIsFieldProduct a; h
  simp only [mixColumn, htwo, hthree, gfull_one]

/-- `mixColumn` is linear over XOR, as its multipliers are (43_mix_columns R142 (b)). -/
theorem mixColumn_xorWord (v w : Word) :
    mixColumn (xorWord v w) = xorWord (mixColumn v) (mixColumn w) := by
  simp only [mixColumn, xorWord, gmul_xor, Word.mk.injEq]
  refine ⟨?_, ?_, ?_, ?_⟩ <;> ac_rfl

/-- The coefficients of a row of the matrix sum to 1, as `2 ^ 3 = 1` and `1 ^ 1 = 0` (43_mix_columns
R142 (c)). -/
theorem gmul_two_xor_gmul_three (x : Byte) : gmul x .two ^^^ gmul x .three ^^^ (x ^^^ x) = x := by
  rw [gmul, gmul, ← BitVec.xor_assoc (xtime x), BitVec.xor_self, BitVec.xor_self, BitVec.zero_xor,
    BitVec.xor_zero]

/-- A column of four equal bytes is fixed (43_mix_columns R142 (c)). -/
theorem mixColumn_of_equal_bytes (x : Byte) : mixColumn ⟨x, x, x, x⟩ = ⟨x, x, x, x⟩ := by
  have hrow := gmul_two_xor_gmul_three x
  simp only [mixColumn, Word.mk.injEq]
  refine ⟨?_, ?_, ?_, ?_⟩ <;> exact Eq.trans (by ac_rfl) hrow

/-! ### `MIXC` -/

@[simp] theorem State.length_sinColumns (s : State) : s.sinColumns.length = 4 := by
  simp [State.sinColumns]

@[simp] theorem length_mixColumns (cols : List Word) : (mixColumns cols).length = cols.length :=
  List.length_map _

/-- Each column of `SIN` is mixed on its own (43_mix_columns R141). -/
theorem getD_mixColumns_sinColumns (s : State) {c : Nat} (hc : c < 4) :
    (mixColumns s.sinColumns).getD c Word.zero = mixColumn (s.sinColumn c) := by
  simp [mixColumns, State.sinColumns, hc]

/-- `SOUT` holds the mixed columns (43_mix_columns R144). -/
theorem publishMixc_word (s : State) {c : Nat} (hc : c < 4) :
    (publishMixc s).wordAt (Buffer.sout.base + 4 * c) = mixColumn (s.sinColumn c) := by
  rw [publishMixc, ← List.append_nil (List.flatMap _ _), State.storeBytes_wordAt _ _ _ _ _ (by simpa),
    getD_mixColumns_sinColumns s hc]

/-- `MIXC` writes no buffer byte outside `SOUT` (43_mix_columns R144). -/
theorem publishMixc_byteAt_out (s : State) {x : Nat}
    (h : ¬(Buffer.sout.base ≤ x ∧ x < Buffer.sout.base + 16)) :
    (publishMixc s).byteAt x = s.byteAt x :=
  s.storeBytes_byteAt_out _ _ _ (by simpa [length_flatMap_bytes] using h)

end Sys2Proof.Machine
end

section
/-! PROOF. The statements of the family 43_mix_columns: the MixColumns datapath and what `MIXC`
completes with. -/

open Sys2Proof Sys2Proof.Machine Sys2Proof.Claims

namespace Sys2Proof.Proofs

/-- Settles O22: with the coefficients as field factors, each row of the datapath is a row of the matrix. -/
theorem mixColumnIsMatrixProduct : Obligations.MixColumnIsMatrixProduct := by
  intro w r hr
  rw [mixColumn_eq_gfull]
  match r, hr with
  | 0, _ => rfl
  | 1, _ => rfl
  | 2, _ => rfl
  | 3, _ => rfl

/-- Settles O23: the column `1, 0, 0, 0` mixed twice starts with `5`. -/
theorem mixColumnProperties : Obligations.MixColumnProperties :=
  ⟨mixColumn_xorWord, mixColumn_of_equal_bytes, ⟨1, 0, 0, 0⟩, by decide⟩

/-- Settles O24: `MIXC` has no check, and the memory is the one that holds the mixed columns in `SOUT`. -/
theorem mixcCompletes : Obligations.MixcCompletes := by
  intro s hbusy
  refine ⟨(publishMixc s).mem, ?_, fun c hc => publishMixc_word s hc,
    fun x hx => publishMixc_byteAt_out s hx⟩
  rw [exec_busy .mixc hbusy rfl]
  rfl

end Sys2Proof.Proofs
end

section
/-! PROOF. The key derivation: the number of blocks, the decimal string of a block's index as the digits of
Mathlib's `Nat.digits`, the bytes of a stretched block, and `DK` after `DERIVE`. -/

namespace Sys2Proof.Machine

open Sys2Proof.Claims

/-! ### The number of blocks (44_key_derivation R153) -/

/-- One block less does not cover the output. -/
theorem blockCount_sub_one_mul_lt {hLen n : Nat} (hpos : 0 < hLen) (hn : 0 < n) :
    (blockCount hLen n - 1) * hLen < n := by
  have := Nat.div_mul_le_self (n + hLen - 1) hLen
  rw [blockCount, Nat.sub_one_mul]
  omega

theorem blockCount_pos {hLen n : Nat} (hpos : 0 < hLen) (hn : 0 < n) : 1 ≤ blockCount hLen n :=
  Nat.div_pos (by omega) hpos

theorem blockCount_mono (hLen : Nat) {n n' : Nat} (h : n ≤ n') : blockCount hLen n ≤ blockCount hLen n' :=
  Nat.div_le_div_right (by omega)

/-! ### The decimal string (44_key_derivation R152) -/

/-- With enough fuel the loop puts the digits of a positive number, the last of them first. -/
theorem decDigits_eq_digits {fuel i : Nat} (acc : List Byte) (hpos : 0 < i) (hfuel : i < fuel) :
    decDigits fuel i acc = (Nat.digits 10 i).reverse.map digitByte ++ acc := by
  induction fuel generalizing i acc with
  | zero => omega
  | succ fuel ih =>
    rw [decDigits]
    split
    · next hlt => rw [Nat.digits_of_lt 10 i hpos.ne' hlt]; rfl
    · next hge =>
      rw [ih _ (by omega) (by omega), Nat.digits_def' (by decide) hpos, List.reverse_cons,
        List.map_append, List.append_assoc]
      rfl

theorem dec_zero : dec 0 = [0x30] := rfl

theorem dec_eq_digits {i : Nat} (hpos : 0 < i) : dec i = (Nat.digits 10 i).reverse.map digitByte := by
  rw [dec, decDigits_eq_digits [] hpos (by omega), List.append_nil]

theorem toNat_digitByte {d : Nat} (h : d < 10) : (digitByte d).toNat = 0x30 + d := by
  rw [digitByte, BitVec.toNat_ofNat]
  omega

theorem mem_dec {i : Nat} {b : Byte} (hpos : 0 < i) (h : b ∈ dec i) : ∃ d < 10, digitByte d = b := by
  rw [dec_eq_digits hpos, List.mem_map] at h
  obtain ⟨d, hd, hb⟩ := h
  exact ⟨d, Nat.digits_lt_base (by decide) (List.mem_reverse.mp hd), hb⟩

/-- Reading a digit string most significant first is evaluating its digits in base ten. -/
theorem decimalValue_digits {ds : List Nat} (h : ∀ d ∈ ds, d < 10) :
    decimalValue (ds.reverse.map digitByte) = Nat.ofDigits 10 ds := by
  rw [decimalValue, List.foldl_map, List.foldl_reverse, Nat.ofDigits_eq_foldr]
  refine List.foldr_ext _ _ _ fun d hd n => ?_
  rw [toNat_digitByte (h d hd), Nat.cast_id]
  omega

theorem decimalValue_dec {i : Nat} (hpos : 0 < i) : decimalValue (dec i) = i := by
  rw [dec_eq_digits hpos, decimalValue_digits fun d hd => Nat.digits_lt_base (by decide) hd,
    Nat.ofDigits_digits]

theorem dec_ne_nil {i : Nat} (hpos : 0 < i) : dec i ≠ [] := by
  rw [dec_eq_digits hpos]
  simpa [Nat.digits_ne_nil_iff_ne_zero] using hpos.ne'

/-- No leading zero: the most significant digit of a positive number is not zero. -/
theorem head?_dec_ne_zero {i : Nat} (hpos : 0 < i) : (dec i).head? ≠ some 0x30 := by
  have hnil : Nat.digits 10 i ≠ [] := Nat.digits_ne_nil_iff_ne_zero.mpr hpos.ne'
  have hlast := Nat.getLast_digit_ne_zero 10 hpos.ne'
  have hlt := Nat.digits_lt_base (by decide) (List.getLast_mem hnil)
  rw [dec_eq_digits hpos, List.head?_map, List.head?_reverse, List.getLast?_eq_getLast_of_ne_nil hnil]
  intro h
  have hbyte := congrArg BitVec.toNat (Option.some.inj h)
  rw [toNat_digitByte hlt] at hbyte
  exact hlast (Nat.add_left_cancel hbyte)

/-! ### The blocks (44_key_derivation R154, R155) -/

section Blocks

variable {Ctx : Type} (p : Prf Ctx)

theorem getElem?_digest (ctx : Ctx) {k : Nat} (hk : k < p.hB) :
    (digest p ctx)[k]? = some (p.digestByte ctx k) := by
  simp [digest, hk]

/-- Byte k of the accumulator takes in byte k of the digest after each further password. -/
theorem getElem?_stretch (P : List Byte) {k : Nat} (hk : k < p.hB) (c : Nat) (ctx : Ctx)
    {T : List Byte} {b : Byte} (hb : T[k]? = some b) :
    (stretch p P c ctx T)[k]? = some ((List.range c).foldl
      (fun acc j => acc ^^^ p.digestByte ((p.update · P)^[j + 1] ctx) k) b) := by
  induction c generalizing ctx T b with
  | zero => exact hb
  | succ c ih =>
    have hnext : (xorBytes T (digest p (p.update ctx P)))[k]? =
        some (b ^^^ p.digestByte (p.update ctx P) k) := by
      rw [xorBytes, List.getElem?_zipWith, hb, getElem?_digest p _ hk]
    rw [stretch, ih _ hnext, List.range_succ_eq_map, List.foldl_cons, List.foldl_map]
    rfl

theorem derive_prefix_blocks (P S : List Byte) (c : Nat) {n b : Nat} (h : blockCount p.hLen n ≤ b) :
    derive p P S c n <+: (List.range b).flatMap (deriveBlock p P S c) :=
  (List.take_prefix _ _).trans (blocks_prefix p P S c h)

end Blocks

/-- Appending the password over and over, as the plain digest absorbs it (44_key_derivation R151). -/
theorem iterate_append (x P : List Byte) (j : Nat) :
    (· ++ P)^[j] x = x ++ (List.replicate j P).flatten := by
  induction j generalizing x with
  | zero => simp
  | succ j ih => rw [Function.iterate_succ_apply, ih, List.replicate_succ, List.flatten_cons,
      List.append_assoc]

/-! ### `DERIVE` (44_key_derivation R156, R157) -/

variable {s : State}

/-- `DK` starts with the derived key. -/
theorem publishDerive_key {k : Nat} (hfits : s.outBytes ≤ s.params.dkMax) (hk : k < s.outBytes) :
    (publishDerive s).byteAt (Buffer.dk.base + k) = s.derivedKey.getD k 0 := by
  rw [publishDerive_dk s hfits (by omega), List.getD_append _ _ _ _ (by simpa using hk)]

/-- `DERIVE` writes no buffer byte outside `DK`. -/
theorem publishDerive_byteAt_out {x : Nat} (hfits : s.outBytes ≤ s.params.dkMax)
    (h : ¬(Buffer.dk.base ≤ x ∧ x < Buffer.dk.base + s.params.dkMax)) :
    (publishDerive s).byteAt x = s.byteAt x := by
  rw [publishDerive, State.putDklen_byteAt, State.storeBytes_byteAt_out]
  rwa [List.length_append, length_derivedKey, length_zeros, Nat.add_sub_cancel' hfits]

/-- The checks of `DERIVE` pass when none of their conditions is met (44_key_derivation R156). -/
theorem check_derive_eq_none (hiter : s.iter ≠ 0) (hout : s.outbits ≠ 0) (hmod : s.outbits % 8 = 0)
    (hpw : s.pwlen.toNat ≤ s.params.pwMax) (hsalt : s.saltlen.toNat ≤ s.params.saltMax)
    (hdk : s.outBytes ≤ s.params.dkMax) : check .derive s = none := by
  rw [check, errorOf_checkDerive, if_neg hiter, if_neg (not_or.mpr ⟨hout, not_not.mpr hmod⟩),
    if_neg (by omega)]

end Sys2Proof.Machine
end

section
/-! PROOF. The statements of the family 44_key_derivation: the number of blocks, the decimal string, the
derived key and what `DERIVE` completes with. -/

open Sys2Proof Sys2Proof.Machine Sys2Proof.Claims

namespace Sys2Proof.Proofs

/-- Settles O25. -/
theorem blockCountIsCeiling : Obligations.BlockCountIsCeiling :=
  fun _ n hpos hn => ⟨blockCount_pos hpos hn, le_blockCount_mul hpos n, blockCount_sub_one_mul_lt hpos hn⟩

/-- Settles O26: 0 is the one byte `0x30`, and a positive number is its digits in base ten. -/
theorem decimalStringIsDecimal : Obligations.DecimalStringIsDecimal := by
  intro i
  obtain rfl | hpos := Nat.eq_zero_or_pos i
  · rw [dec_zero]
    decide
  · refine ⟨decimalValue_dec hpos, fun b hb => ?_, dec_ne_nil hpos,
      fun h => absurd h (head?_dec_ne_zero hpos)⟩
    obtain ⟨d, hd, rfl⟩ := mem_dec hpos hb
    rw [toNat_digitByte hd]
    omega

/-- Settles O27. -/
theorem deriveOutputLength : Obligations.DeriveOutputLength :=
  fun _ p P S c n => length_derive p P S c n

/-- Settles O28: both keys are prefixes of the longer one's blocks, and the first is no longer. -/
theorem derivePrefixProperty : Obligations.DerivePrefixProperty := by
  intro Ctx p P S c n n' h
  refine List.prefix_of_prefix_length_le (derive_prefix_blocks p P S c (blockCount_mono p.hLen h))
    (derive_prefix_blocks p P S c le_rfl) ?_
  rw [length_derive, length_derive]
  exact Nat.div_le_div_right h

/-- Settles O29: the context of iteration j is everything absorbed, the password j times at its end. -/
theorem deriveBlockClosedForm : Obligations.DeriveBlockClosedForm := by
  intro hBPred H P S c i k hk
  have hk : k < (plainPrf hBPred H).hB := Nat.lt_succ_of_le hk
  have hzero : (zeros (plainPrf hBPred H).hB)[k]? = some 0 := by simp [zeros, hk]
  rw [deriveBlock, getElem?_stretch _ P hk c _ hzero]
  simp only [plainPrf, iterate_append]

/-- Settles O30: the checks pass, and the memory is the one that holds the derived key in `DK`. -/
theorem deriveCompletes : Obligations.DeriveCompletes := by
  intro s hbusy hiter hout hmod hpw hsalt hdk P S
  refine ⟨(publishDerive s).mem, ?_, fun k hk => publishDerive_key hdk hk,
    fun k hlow hhigh => publishDerive_tail s hlow hhigh, fun x hx => publishDerive_byteAt_out hdk hx⟩
  rw [exec_busy .derive hbusy (check_derive_eq_none hiter hout hmod hpw hsalt hdk)]
  rfl

end Sys2Proof.Proofs
end

section
/-! PROOF. The abort, the completion and the skipped step of the Engine, with any schedule behind them. -/

namespace Sys2Proof.Machine

variable {s : State}

/-- An abort transaction, in every state (60_exceptions R178). -/
theorem step_abort (s : State) (rest : List Event) :
    step { s with schedule := .hostWrite (portAddr 0x00C) 1 :: rest } =
      .next ((s.withSchedule rest).abort.answer (.write .okay)) := by
  rw [step_scheduled, deliver, hostWrite_ctrl, if_pos (by decide), State.withSchedule]

/-- The Engine's scheduled step of an idle machine is skipped (log 8). -/
theorem step_engine_idle {rest : List Event} (hidle : s.busy = false)
    (hsched : s.schedule = .engine :: rest) : step s = .next (s.withSchedule rest) :=
  (step_cons hsched).trans (engineTurn_idle hidle)

/-- A command publishes the same whatever steps are still to come. -/
theorem published_withSchedule (i : Instr) (s : State) (es : List Event) :
    published i (s.withSchedule es) = (published i s).withSchedule es := by
  cases i with
  | gfmul a b => simp only [published]; cases coeffOf b <;> rfl
  | subb a => rfl
  | kexp => simp only [published, State.withSchedule_keybits]; cases keySizeOf s.keybits <;> rfl
  | mixc => rfl
  | derive => rfl

theorem check_withSchedule (i : Instr) (s : State) (es : List Event) :
    check i (s.withSchedule es) = check i s := by
  cases i <;> rfl

/-- The Engine's step completes the running command, and all but the steps to come is the same whatever
they are (10_state R45). -/
theorem step_engine_busy (h : Inv s) (hbusy : s.busy = true) : ∃ t : State, t.status = statusDone ∧
    ∀ rest, step { s with schedule := .engine :: rest } = .next (t.withSchedule rest) := by
  obtain ⟨i, hword, hcheck⟩ := h.busyChecked hbusy
  refine ⟨(published i s).complete, rfl, fun rest => ?_⟩
  calc step { s with schedule := .engine :: rest }
      _ = exec i (s.withSchedule rest) := engineTurn_busy (s := s.withSchedule rest) hbusy hword
      _ = .next (published i (s.withSchedule rest)).complete :=
        exec_busy i hbusy ((check_withSchedule i s rest).trans hcheck)
      _ = .next ((published i s).complete.withSchedule rest) := by rw [published_withSchedule]; rfl

end Sys2Proof.Machine
end

section
/-! PROOF. The statement of the family 60_exceptions: the race of an abort with the completion. -/

open Sys2Proof Sys2Proof.Machine Sys2Proof.Claims

namespace Sys2Proof.Proofs

/-- Settles O47: after the abort the machine is idle, so the Engine's step is skipped; after the
completion it is idle too, so the abort does nothing. -/
theorem abortAndCompletionRace : Obligations.AbortAndCompletionRace := by
  intro s rest hinv hbusy abort
  constructor
  · have haborted : (s.withSchedule (.engine :: rest)).abort =
        { s with status := statusAborted, schedule := .engine :: rest } := if_pos hbusy
    refine (run_succ 1 (step_abort s _)).trans
      ((run_succ 0 (step_engine_idle (rest := rest) (by simp) (by simp))).trans ?_)
    rw [haborted]
    rfl
  · obtain ⟨t, hdone, hcomplete⟩ := step_engine_busy hinv hbusy
    have hidle : (t.withSchedule rest).busy = false := by
      rw [State.withSchedule_busy, State.busy, hdone]
      decide
    have habort := step_abort t rest
    rw [State.abort_of_idle _ hidle] at habort
    exact ⟨t.withSchedule rest, hcomplete rest, hdone,
      (run_succ 1 (hcomplete (abort :: rest))).trans (run_succ 0 habort)⟩

end Sys2Proof.Proofs
end

section
/-! PROOF. A command from its issue to its completion: what the issue of an idle machine does by the
command's check, what a busy machine keeps until the Engine's turn, and what that turn leaves. -/

namespace Sys2Proof.Machine

open Sys2Proof.Claims

variable {s t : State}

/-! ### The issue -/

/-- The issue of a command whose check passes (30_encoding R78). -/
theorem exec_accepted {i : Instr} (hidle : s.busy = false) (hcheck : check i s = none) :
    exec i s = .next (s.accept (encode i)) := by
  rw [exec_idle i hidle, hcheck]

/-- The issue of a command whose check fails (30_encoding R78, 60_exceptions R173). -/
theorem exec_rejected {i : Instr} {e : ErrorCode} (hidle : s.busy = false)
    (hcheck : check i s = some e) : exec i s = .next (s.reject (encode i) e) := by
  rw [exec_idle i hidle, hcheck]

theorem issueCode_encode_eq_zero {i : Instr} : issueCode (encode i) s = 0 ↔ check i s = none :=
  not_iff_not.mp issueCode_encode_ne_zero

theorem check_withReply (i : Instr) (s : State) (r : Option Reply) :
    check i { s with reply := r } = check i s := by
  cases i <;> rfl

/-- The state an accepted write of a command's word to `CMD` leaves, with `rest` the steps to come. -/
def State.issued (s : State) (i : Instr) (rest : List Event) : State :=
  ((s.withSchedule rest).answer (.write .okay)).accept (encode i)

/-- The issue writes nothing that a check reads. -/
theorem check_issued (s : State) (i : Instr) (rest : List Event) :
    check i (s.issued i rest) = check i s := by
  cases i <;> rfl

/-- The Host's write of a command's word to `CMD`, when the command's check passes (30_encoding R78). -/
theorem step_issued {i : Instr} (hidle : s.busy = false) (hcheck : check i s = none)
    (rest : List Event) :
    step { s with schedule := .hostWrite (portAddr 0x000) (encode i) :: rest } =
      .next (s.issued i rest) :=
  (hostWrite_cmd (s := s.withSchedule rest) hidle (decodeWord_encode i)).trans
    (exec_accepted hidle (((check_withReply i _ _).trans (check_withSchedule i s rest)).trans hcheck))

/-! ### The completion -/

@[simp] theorem published_cmd (i : Instr) (s : State) : (published i s).cmd = s.cmd := by
  rw [published_frame]
@[simp] theorem published_err (i : Instr) (s : State) : (published i s).err = s.err := by
  rw [published_frame]
@[simp] theorem published_schedule (i : Instr) (s : State) :
    (published i s).schedule = s.schedule := by
  rw [published_frame]

/-- A command publishes the same whatever the port answered last. -/
theorem published_withReply (i : Instr) (s : State) (r : Option Reply) :
    published i { s with reply := r } = { published i s with reply := r } := by
  cases i with
  | gfmul a b => simp only [published]; cases coeffOf b <;> rfl
  | subb a => rfl
  | kexp => simp only [published]; cases keySizeOf s.keybits <;> rfl
  | mixc => rfl
  | derive => rfl

/-- The Engine completes a busy machine's command the same whatever the port answered last. -/
theorem engineTurn_withReply (hbusy : s.busy = true) (h : engineTurn s = .next t)
    (r : Option Reply) : engineTurn { s with reply := r } = .next { t with reply := r } := by
  rcases engineTurn_next h with ⟨hidle, -⟩ | ⟨-, i, hword, hcheck, rfl⟩
  · cases hbusy.symm.trans hidle
  · calc engineTurn { s with reply := r }
        _ = exec i { s with reply := r } := engineTurn_busy (s := { s with reply := r }) hbusy hword
        _ = .next (published i { s with reply := r }).complete :=
          exec_busy i hbusy ((check_withReply i s r).trans hcheck)
        _ = .next { (published i s).complete with reply := r } := by
          rw [published_withReply]; rfl

/-- The Engine's turn of a busy machine that meets the invariant completes its command, whose word stays
in `CMD` (10_state R45). -/
theorem Inv.engineTurn_completes (h : Inv s) (hbusy : s.busy = true) :
    ∃ t, engineTurn s = .next t ∧ t.status = statusDone ∧ t.cmd = s.cmd := by
  obtain ⟨i, hword, hcheck⟩ := h.busyChecked hbusy
  exact ⟨_, (engineTurn_busy hbusy hword).trans (exec_busy i hbusy hcheck), rfl, published_cmd i s⟩

/-! ### Result locations -/

/-- The result buffers are those a Host may only read (20_memory R54). -/
theorem inResultBuffer_holds {p : Params} {x : Nat} (h : inResultBuffer p x) :
    ∃ b : Buffer, b.holds p x = true ∧ Place.access (.buf b) = .readOnly := by
  rcases h with hsout | hrks | hdk
  · exact ⟨.sout, holds_iff.mpr hsout, rfl⟩
  · exact ⟨.rks, holds_iff.mpr hrks, rfl⟩
  · exact ⟨.dk, holds_iff.mpr hdk, rfl⟩

/-- A word stored in a writable buffer leaves every result buffer. -/
theorem storeValue_byteAt_result (hp : s.params.wellFormed = true) {b : Buffer} {off : Nat}
    (v : Value32) (halign : off % 4 = 0) (hb : b.holds s.params off = true)
    (haccess : Place.access (.buf b) = .readWrite) {x : Nat} (hx : inResultBuffer s.params x) :
    (s.storeValue off v).byteAt x = s.byteAt x := by
  obtain ⟨c, hc, hreadOnly⟩ := inResultBuffer_holds hx
  have hne : c ≠ b := by
    rintro rfl
    cases hreadOnly.symm.trans haccess
  exact storeBytes_byteAt_of_ne (bs := (wordOf v).bytes) hp (holdsRun_word hp halign hb) hne hc

/-- Of the effects of a step, only a completion and a reset write a result location (70_reset_and_hazards
R194 hazard 1). -/
theorem Effect.results_kept (hp : s.params.wellFormed = true) {e : Event} (h : Effect s e t)
    (hengine : e ≠ .engine) (hreset : e ≠ .reset) :
    t.res = s.res ∧ t.ksinfo = s.ksinfo ∧ t.dklen = s.dklen ∧
      ∀ x, inResultBuffer s.params x → t.byteAt x = s.byteAt x := by
  cases h with
  | read | answered | accepted | rejected => exact ⟨rfl, rfl, rfl, fun _ _ => rfl⟩
  | aborted | operand => simp
  | stored a v b hidle hb haccess =>
    exact ⟨rfl, rfl, rfl, fun x hx => storeValue_byteAt_result
      (s := s.answer (.write .okay)) hp v (offset_mod a) hb haccess hx⟩
  | skipped | completed => exact absurd rfl hengine
  | reset => exact absurd rfl hreset

end Sys2Proof.Machine
end

section
/-! PROOF. The statements of the family 70_reset_and_hazards: commands after a reset, where results change,
and a command's run from its issue to its completion. -/

open Sys2Proof Sys2Proof.Machine Sys2Proof.Claims

namespace Sys2Proof.Proofs

/-! ### A busy machine until the Engine's turn -/

/-- A run of plain transactions of a busy machine changes nothing but the port's answer (20_memory R63). -/
theorem run_plain {s : State} {es : List Event} (rest : List Event) (k : Nat)
    (hp : s.params.wellFormed = true) (hbusy : s.busy = true)
    (hplain : ∀ e ∈ es, isPlainTransaction e) :
    ∃ r, Host.Core.run Sys2Proof.core (es.length + k) { s with schedule := es ++ rest } =
      Host.Core.run Sys2Proof.core k { s with schedule := rest, reply := r } := by
  induction es generalizing s with
  | nil => exact ⟨s.reply, by rw [List.length_nil, Nat.zero_add]; rfl⟩
  | cons e es ih =>
    obtain ⟨he, hes⟩ := List.forall_mem_cons.mp hplain
    obtain ⟨r, hstep⟩ := operandsAreFrozenWhileBusy s e (es ++ rest) hp hbusy he
    obtain ⟨r', hrun⟩ := ih (s := { s with reply := some r }) hp hbusy hes
    refine ⟨r', ?_⟩
    rw [List.length_cons, Nat.succ_add]
    exact (run_succ _ hstep).trans hrun

/-- Settles O45: the transactions leave the issue state but for the port's answer, which the completion
does not read. -/
theorem resultDependsOnTheIssueStateOnly : Obligations.ResultDependsOnTheIssueStateOnly := by
  intro s t es rest hp hbusy hplain hstep
  obtain ⟨r, hrun⟩ := run_plain (.engine :: rest) 1 hp hbusy hplain
  have hcomplete := engineTurn_withReply (s := { s with schedule := rest }) hbusy hstep r
  exact ⟨r, hrun.trans (run_succ 0 hcomplete)⟩

/-- A step that neither aborts nor resets is the Engine's turn or a plain transaction. -/
theorem spares_iff {e : Event} : spares e ↔ e = .engine ∨ isPlainTransaction e := by
  cases e <;> simp [spares, isPlainTransaction]

/-- A busy machine with no abort and no reset among its scheduled steps completes its command, by induction
on the schedule: a plain transaction keeps the command running; the Engine's turn, scheduled or at the end
of the schedule, completes it (70_reset_and_hazards R197, log 7). -/
theorem run_completes {s : State} {es : List Event} (hinv : Inv s) (hbusy : s.busy = true)
    (hspares : ∀ e ∈ es, spares e) :
    ∃ k t, k ≤ es.length + 1 ∧ Host.Core.run Sys2Proof.core k { s with schedule := es } = .next t ∧
      t.status = statusDone ∧ t.cmd = s.cmd := by
  induction es generalizing s with
  | nil =>
    obtain ⟨t, hturn, hdone, hcmd⟩ := (hinv.withSchedule []).engineTurn_completes hbusy
    exact ⟨1, t, Nat.le_refl 1, run_succ 0 hturn, hdone, hcmd⟩
  | cons e es ih =>
    obtain ⟨he, hes⟩ := List.forall_mem_cons.mp hspares
    rcases spares_iff.mp he with rfl | hplain
    · obtain ⟨t, hturn, hdone, hcmd⟩ := (hinv.withSchedule es).engineTurn_completes hbusy
      exact ⟨1, t, Nat.le_add_left _ _, run_succ 0 hturn, hdone, hcmd⟩
    · obtain ⟨r, hstep⟩ := operandsAreFrozenWhileBusy s e es hinv.paramsLegal hbusy hplain
      obtain ⟨k, t, hk, hrun, hdone, hcmd⟩ := ih (s := s.answer r) (hinv.answer r) hbusy hes
      exact ⟨k + 1, t, Nat.succ_le_succ hk, (run_succ k hstep).trans hrun, hdone, hcmd⟩

/-- Settles O46. -/
theorem acceptedCommandsComplete : Obligations.AcceptedCommandsComplete :=
  fun _ => run_completes

/-! ### One command -/

/-- Settles O49: the write is the acceptance, and the check that passed at issue passes at completion. -/
theorem issuedCommandIsCompleted : Obligations.IssuedCommandIsCompleted := by
  intro s i rest hidle hcode
  have hcheck : check i s = none := issueCode_encode_eq_zero.mp hcode
  have hissue := step_issued hidle hcheck (.engine :: rest)
  have hexec : exec i (s.issued i rest) = .next (published i (s.issued i rest)).complete :=
    exec_busy i (State.accept_busy _ _) ((check_issued s i rest).trans hcheck)
  have hturn : step (s.issued i (.engine :: rest)) = exec i (s.issued i rest) :=
    engineTurn_busy (s := s.issued i rest) (State.accept_busy _ _) (decodeWord_encode i)
  exact ⟨_, (run_succ 1 hissue).trans (run_succ 0 (hturn.trans hexec)), hexec, rfl,
    published_err i _, published_cmd i _, published_schedule i _⟩

/-- Settles O48: every Host transaction is one of the effects that keep the results. -/
theorem resultsChangeOnlyAtCompletion : Obligations.ResultsChangeOnlyAtCompletion := by
  intro s t e hp hhead hengine hreset hstep
  have heff := step_effect hstep
  rw [List.headD_eq_head?_getD, hhead, Option.getD_some] at heff
  exact heff.results_kept (s := s.withSchedule s.schedule.tail) hp hengine hreset

/-- Settles O36: after a reset `KEYBITS` and `ITER` are 0, so two checks fail and the others pass. -/
theorem commandsAfterReset : Obligations.CommandsAfterReset := by
  intro s
  refine ⟨rfl, ?_⟩
  intro r
  have hidle : r.busy = false := BitVec.getLsbD_zero
  have hkexp : check .kexp r = some .invalidKeySize := rfl
  have hderive : check .derive r = some .invalidIterationCount := rfl
  exact ⟨exec_rejected hidle hkexp, exec_rejected hidle hderive, exec_accepted hidle rfl,
    fun a => exec_accepted (i := .subb a) hidle rfl⟩

end Sys2Proof.Proofs
end

section
/-! PROOF. The statement of the family other: the command words of the spec's test vectors (95_test_vectors
V40, V41). -/

open Sys2Proof

namespace Sys2Proof.Proofs

/-- The words of V40 are the encodings of their commands, so they decode to them. -/
theorem decodeWord_acceptedVectors :
    decodeWord 0x01000257 = .ok (.gfmul 0x57 2) ∧ decodeWord 0x0100ffff = .ok (.gfmul 0xff 0xff) ∧
    decodeWord 0x02000053 = .ok (.subb 0x53) ∧ decodeWord 0x03000000 = .ok .kexp ∧
    decodeWord 0x04000000 = .ok .mixc ∧ decodeWord 0x05000000 = .ok .derive := by
  simp only [decodeWord_ok_iff_encode]
  decide

/-- The words of V41 are no encodings; the decoder names the first field that is wrong. -/
theorem decodeWord_refusedVectors :
    decodeWord 0x06000000 = .error .unassignedOpcode ∧ decodeWord 0x01010257 = .error .zNotZero ∧
    decodeWord 0x02000153 = .error .bNotZero ∧ decodeWord 0x03000001 = .error .aNotZero := by
  decide

/-- Settles O4: the accepted words by the encoder, the refused words by the decoder's field checks. -/
theorem specWordsDecode : Obligations.SpecWordsDecode := by
  obtain ⟨hgfmul, hgfmulMax, hsubb, hkexp, hmixc, hderive⟩ := decodeWord_acceptedVectors
  exact ⟨hgfmul, hgfmulMax, hsubb, hkexp, hmixc, hderive, decodeWord_refusedVectors⟩

end Sys2Proof.Proofs
end
